-- ==== Sys2Proof/Word.lean ====
section
/-! DEFINITION. The word types of the PFC and one table builder. Every register is 32 bits (R6 `REG_W`), every
system-memory address is 32 bits (R6 `ADDR_W`), coordinates are 16 bits (R6 `COORD_W`), channels are 8 bits
(R6 `CHAN_W`). -/

namespace Sys2Proof

/-- A register value, a command word, a device word or a system-memory byte address: 32 bits (R6). -/
abbrev Word := BitVec 32

/-- A byte of memory or one 8-bit channel of a pixel value (R6, R39). -/
abbrev Byte := BitVec 8

/-- A coordinate or a table entry: 16 bits (R6). -/
abbrev Half := BitVec 16

/-- The table of `n` entries whose entry `i` is `f i`. -/
def tabulate {α : Type} (n : Nat) (f : Nat → α) : Vector α n :=
  ⟨((List.range n).map f).toArray, by simp⟩

end Sys2Proof
end

