-- ==== Sys2Proof/Config.lean ====
section
/-! DEFINITION. The parameters of 00_scope.md R6 and the values the spec leaves open. -/

namespace Sys2Proof

/-- Largest legal bitfield width, `WID_MAX` (R6). -/
def Config.widMax : Nat := 8

/-- Bits per channel of a pixel value, `CHAN_W` (R6). -/
def Config.chanWidth : Nat := 8

/-- Entries per channel table, `LUT_ENTRIES` (R6). -/
def Config.lutEntries : Nat := 256

/-- Channels, `NCHAN` (R6). -/
def Config.nchan : Nat := 4

/-- Size of the register window in bytes, `MMIO_SIZE` (R6). -/
def Config.mmioSize : Nat := 256

/-- What a byte of system memory that nothing has written reads as. The spec gives memory no contents (R20: they are a
parameter of a model). DESIGN CHOICE, log 1, unsafe: a proof about `State.reset` can lean on the zero. -/
def Config.unlistedByte : Byte := 0

/-- `LUT_INIT(c, i)`: what entry `i` of channel table `c` holds after reset (R6, R48, R200). The spec leaves it open,
unconstrained, so it has no body: no proof can see a value of it. Log 2, safe. -/
opaque Config.lutInit (c i : Nat) : BitVec 16

/-- The n-th free value of a run (R47, R77, R81 "any value"): no body, so no proof can see it. `State.fresh` counts
the values used. Log 11, safe. -/
opaque Config.freeWord (n : Nat) : Word

/-- The n-th free value, where the spec leaves a byte open (R81, R207). -/
def Config.freeByte (n : Nat) : Byte := (Config.freeWord n).setWidth 8

/-- The n-th free value, where the spec leaves a choice among the writers of a byte open (R77): some member of the
list `v :: vs`. -/
def Config.freeChoice (n : Nat) (v : Byte) (vs : List Byte) : Byte :=
  (v :: vs).getD ((Config.freeWord n).toNat % (vs.length + 1)) v

end Sys2Proof
end

