-- ==== Sys2Proof/Syntax.lean ====
section
/-! DEFINITION. The sixteen commands of 30_encoding.md R93, one constructor per row of spec/opcode_table.json. -/

namespace Sys2Proof

/-- A channel of a pixel value, coded 0, 1, 2, 3 (R6 `NCHAN`, R91, R92). -/
inductive Channel where
  | red
  | green
  | blue
  | alpha
  deriving DecidableEq, Repr

/-- A PFC command (R93). CH is a channel, IDX an index 0..255 (R92); every other operand is a register (R45). -/
inductive Instr where
  | nop
  | validate
  | decode
  | encode
  | extract (c : Channel)
  | pack (c : Channel)
  | extw
  | packw
  | addr
  | rdpix
  | wrpix
  | ramp
  | lutwr (c : Channel) (i : BitVec 8)
  | lutrd (c : Channel) (i : BitVec 8)
  | todev
  | fromdev
  deriving DecidableEq, Repr

end Sys2Proof
end

