-- ==== Sys2Proof/WellFormed.lean ====
section
/-! DEFINITION. What a well-formed command is. The operands' types already bound CH and IDX (R92), so the check with
content is the one on WORDS: `legalCmd`, written from the match and mask columns of R93, apart from the decoder. -/

namespace Sys2Proof

/-- One row of the match-and-mask table of 30_encoding.md R93. -/
structure OpcodeRow where
  mnemonic : String
  pattern : Word
  mask : Word
  deriving DecidableEq, Repr

/-- The match-and-mask table of R93, in its order. -/
def opcodeRows : List OpcodeRow :=
  [ ⟨"NOP", 0x00000000#32, 0xFFFFFFFF#32⟩,
    ⟨"VALIDATE", 0x00000001#32, 0xFFFFFFFF#32⟩,
    ⟨"DECODE", 0x00000002#32, 0xFFFFFFFF#32⟩,
    ⟨"ENCODE", 0x00000003#32, 0xFFFFFFFF#32⟩,
    ⟨"EXTRACT", 0x00000004#32, 0xFFFFFCFF#32⟩,
    ⟨"PACK", 0x00000005#32, 0xFFFFFCFF#32⟩,
    ⟨"EXTW", 0x00000006#32, 0xFFFFFFFF#32⟩,
    ⟨"PACKW", 0x00000007#32, 0xFFFFFFFF#32⟩,
    ⟨"ADDR", 0x00000008#32, 0xFFFFFFFF#32⟩,
    ⟨"RDPIX", 0x00000009#32, 0xFFFFFFFF#32⟩,
    ⟨"WRPIX", 0x0000000A#32, 0xFFFFFFFF#32⟩,
    ⟨"RAMP", 0x0000000B#32, 0xFFFFFFFF#32⟩,
    ⟨"LUTWR", 0x0000000C#32, 0xFFFC00FF#32⟩,
    ⟨"LUTRD", 0x0000000D#32, 0xFFFC00FF#32⟩,
    ⟨"TODEV", 0x0000000E#32, 0xFFFFFFFF#32⟩,
    ⟨"FROMDEV", 0x0000000F#32, 0xFFFFFFFF#32⟩ ]

/-- `w & mask = match`: the word is the command of this row (R93). -/
def OpcodeRow.accepts (r : OpcodeRow) (w : Word) : Bool :=
  w &&& r.mask == r.pattern

/-- `LegalCmd(w)`: the word matches a row of R93 (R94). -/
def legalCmd (w : Word) : Bool :=
  opcodeRows.any (fun r => r.accepts w)

/-- The opcode of a command as a number (R93). -/
def Instr.opcode : Instr → Nat
  | .nop => 0x00
  | .validate => 0x01
  | .decode => 0x02
  | .encode => 0x03
  | .extract _ => 0x04
  | .pack _ => 0x05
  | .extw => 0x06
  | .packw => 0x07
  | .addr => 0x08
  | .rdpix => 0x09
  | .wrpix => 0x0A
  | .ramp => 0x0B
  | .lutwr _ _ => 0x0C
  | .lutrd _ _ => 0x0D
  | .todev => 0x0E
  | .fromdev => 0x0F

/-- Every operand is within the range R91 and R92 give it: CH 0..3, IDX 0..255. The operands' types bound both, so
every command passes. -/
def Instr.wellFormed : Instr → Bool
  | .lutwr _ i => decide (i.toNat < Config.lutEntries)
  | .lutrd _ i => decide (i.toNat < Config.lutEntries)
  | .nop | .validate | .decode | .encode | .extract _ | .pack _ | .extw | .packw => true
  | .addr | .rdpix | .wrpix | .ramp | .todev | .fromdev => true

end Sys2Proof
end

