-- ==== Sys2Proof/Decode.lean ====
section
/-! DEFINITION. The decoder and the encoder of command words (30_encoding.md R90 to R95). -/

namespace Sys2Proof

/-- Why a word is illegal (R94). -/
inductive DecodeError where
  /-- OP is in 0x10..0xFF. -/
  | reservedOp
  /-- RSV is not 0. -/
  | reservedBits
  /-- CH is not 0 in a command that does not use CH. -/
  | unusedChannel
  /-- IDX is not 0 in a command that does not use IDX. -/
  | unusedIndex
  deriving DecidableEq, Repr

/-- OP, bits 7:0 (R91). -/
def opField (w : Word) : BitVec 8 := w.extractLsb' 0 8

/-- CH, bits 9:8 (R91). -/
def chField (w : Word) : BitVec 2 := w.extractLsb' 8 2

/-- IDX, bits 17:10 (R91). -/
def idxField (w : Word) : BitVec 8 := w.extractLsb' 10 8

/-- RSV, bits 31:18 (R91). -/
def rsvField (w : Word) : BitVec 14 := w.extractLsb' 18 14

/-- The code of a channel: 0 red, 1 green, 2 blue, 3 alpha (R91). -/
def Channel.code : Channel → BitVec 2
  | .red => 0
  | .green => 1
  | .blue => 2
  | .alpha => 3

/-- The channel a CH field selects (R92). -/
def Channel.ofCode (b : BitVec 2) : Channel :=
  if b = 0 then .red else if b = 1 then .green else if b = 2 then .blue else .alpha

/-- A command that uses neither CH nor IDX: both fields must be 0 (R94). -/
def decodePlain (w : Word) (i : Instr) : Except DecodeError Instr :=
  if chField w ≠ 0 then .error .unusedChannel
  else if idxField w ≠ 0 then .error .unusedIndex
  else .ok i

/-- A command that uses CH and not IDX: IDX must be 0 (R94). -/
def decodeChannel (w : Word) (f : Channel → Instr) : Except DecodeError Instr :=
  if idxField w ≠ 0 then .error .unusedIndex
  else .ok (f (Channel.ofCode (chField w)))

/-- A command that uses both CH and IDX. -/
def decodeIndexed (w : Word) (f : Channel → BitVec 8 → Instr) : Except DecodeError Instr :=
  .ok (f (Channel.ofCode (chField w)) (idxField w))

/-- The command of a word whose OP is `op` and whose RSV is 0 (R93). -/
def decodeOp (w : Word) (op : Nat) : Except DecodeError Instr :=
  match op with
  | 0x00 => decodePlain w .nop
  | 0x01 => decodePlain w .validate
  | 0x02 => decodePlain w .decode
  | 0x03 => decodePlain w .encode
  | 0x04 => decodeChannel w .extract
  | 0x05 => decodeChannel w .pack
  | 0x06 => decodePlain w .extw
  | 0x07 => decodePlain w .packw
  | 0x08 => decodePlain w .addr
  | 0x09 => decodePlain w .rdpix
  | 0x0A => decodePlain w .wrpix
  | 0x0B => decodePlain w .ramp
  | 0x0C => decodeIndexed w .lutwr
  | 0x0D => decodeIndexed w .lutrd
  | 0x0E => decodePlain w .todev
  | 0x0F => decodePlain w .fromdev
  | _ => .error .reservedOp

/-- The command a word stands for, or why it is illegal (R93, R94). Total: a decoder takes exactly one word (R90). -/
def decode (w : Word) : Except DecodeError Instr :=
  if rsvField w ≠ 0 then .error .reservedBits else decodeOp w (opField w).toNat

/-- The CH field of a command: 0 where the command does not use it (R93, R94). -/
def Instr.chBits : Instr → BitVec 2
  | .extract c | .pack c | .lutwr c _ | .lutrd c _ => c.code
  | .nop | .validate | .decode | .encode | .extw | .packw | .addr | .rdpix | .wrpix => 0
  | .ramp | .todev | .fromdev => 0

/-- The IDX field of a command: 0 where the command does not use it (R93, R94). -/
def Instr.idxBits : Instr → BitVec 8
  | .lutwr _ i | .lutrd _ i => i
  | .nop | .validate | .decode | .encode | .extract _ | .pack _ | .extw | .packw | .addr => 0
  | .rdpix | .wrpix | .ramp | .todev | .fromdev => 0

/-- The word of a command, `OP | (CH << 8) | (IDX << 10)` (R96). -/
def encode (i : Instr) : Word :=
  BitVec.ofNat 32 i.opcode ||| (i.chBits.setWidth 32 <<< 8) ||| (i.idxBits.setWidth 32 <<< 10)

/-- The decoder on a word written as a number: bit 0 is the least significant bit of the one word a command has, and
bits above `nbits` are 0. A number that does not fit in 32 bits is no command word (R90). -/
def decodeTableWord (nbits w : Nat) : Option Instr :=
  if w % 2 ^ nbits < 2 ^ 32 then
    match decode (BitVec.ofNat 32 (w % 2 ^ nbits)) with
    | .ok i => some i
    | .error _ => none
  else none

end Sys2Proof
end

