-- ==== Sys2Proof/Machine/State.lean ====
section
/-! DEFINITION. Everything the spec gives the PFC to hold (10_state.md), what it shares with its surroundings, and the
machine right after reset (70_reset_and_hazards.md R200, R201). -/

namespace Sys2Proof.Machine

/-- The named registers of the bank (R21), CMD included. -/
inductive Reg where
  | cmd | status | ctrl | fmt | descR | descG | descB | descA | maxval | dim | devBase | devStride
  | devOfs | imgBase | imgStride | outBase | pix | dword | xy | maddr | res | ldata
  deriving DecidableEq, Repr

/-- `eng`: RUN exactly while STATUS.BUSY = 1 (R49). -/
inductive Engine where
  | idle
  | run
  deriving DecidableEq, Repr

/-- One byte event of the memory port (R9, R10, R70). -/
inductive MemEvent where
  | read (a : Word) (v : Byte)
  | write (a : Word) (v : Byte)
  deriving DecidableEq, Repr

/-- Addresses `lo` to `hi`, both included, where the platform answers no engine access (MEM_ADMIT false, R72). -/
structure Range where
  lo : Word
  hi : Word
  deriving DecidableEq, Repr

/-- What moves next, and with what: the interleaving of engine, host and platform as plain data (log 6, log 13). -/
inductive Turn where
  /-- The engine moves. -/
  | engine
  /-- The host writes `value`, an access of `size` bytes at bus address `addr`, through the register window (R22). -/
  | busWrite (addr size : Nat) (value : Word)
  /-- The host reads `size` bytes at bus address `addr` through the register window (R22). -/
  | busRead (addr size : Nat)
  /-- The host reads a 32-bit word at `addr` through the register window, and again until bit 0 of it reads 0: the
  loop of `wait` (R97, log 18). -/
  | busPoll (addr : Nat)
  /-- The host or another agent stores a byte into system memory (R77, R208). -/
  | memWrite (addr : Word) (value : Byte)
  /-- The host reads a byte of system memory (R76, R207). -/
  | memRead (addr : Word)
  /-- The platform's reset input (R200), after `after` byte accesses of the running command (R216). -/
  | reset (after : Nat)
  deriving DecidableEq, Repr

/-- Why the machine stops with a fault. No command faults: the PFC has no trap (R191). -/
inductive Fault where
  /-- Raised by a host access whose bus address is outside the 256-byte register window: it reaches no register of the
  PFC (R21, R60). Safe: the model stops where the access belongs to another target. Log 5. -/
  | outsideWindow
  deriving DecidableEq, Repr

/-- Why the model refuses to give a meaning. -/
inductive Refusal where
  /-- An instruction without a meaning yet; raised by an arm of `exec` only. Safe. -/
  | notModelled (mnemonic : String)
  /-- Raised by a host access to the register window that is not an aligned 32-bit access: the spec asks a model to
  refuse it (R22, U1). Safe. -/
  | hostAccessShape
  deriving DecidableEq, Repr

/-- The state of the PFC and of what it shares with its surroundings. -/
structure State where
  /-- STATUS (R26): BUSY[0], DONE[1], OVR[2], ERR[7:4]. -/
  status : Word
  /-- CTRL (R27): IE[0]. -/
  ctrl : Word
  /-- FMT (R28): BPP[2:0], VIS[6:4]. -/
  fmt : Word
  /-- DESC_R (R30): OFF[4:0], WID[11:8]. -/
  descR : Word
  /-- DESC_G (R30). -/
  descG : Word
  /-- DESC_B (R30). -/
  descB : Word
  /-- DESC_A (R30). -/
  descA : Word
  /-- MAXVAL (R31): MAXVAL[15:0]. -/
  maxval : Word
  /-- DIM (R32): WIDTH[15:0], HEIGHT[31:16]. -/
  dim : Word
  /-- DEV_BASE (R33). -/
  devBase : Word
  /-- DEV_STRIDE (R34). -/
  devStride : Word
  /-- DEV_OFS (R35): XOFF[15:0], YOFF[31:16]. -/
  devOfs : Word
  /-- IMG_BASE (R36). -/
  imgBase : Word
  /-- IMG_STRIDE (R37). -/
  imgStride : Word
  /-- OUT_BASE (R38). -/
  outBase : Word
  /-- PIX (R39): B[7:0], G[15:8], R[23:16], A[31:24]. -/
  pix : Word
  /-- DWORD (R40). -/
  dword : Word
  /-- XY (R41): X[15:0], Y[31:16]. -/
  xy : Word
  /-- MADDR (R42). -/
  maddr : Word
  /-- RES (R43). -/
  res : Word
  /-- LDATA (R44): LDATA[15:0]. -/
  ldata : Word
  /-- The LUT (R48): four tables of 256 entries of 16 bits, table 0 red, 1 green, 2 blue, 3 alpha. -/
  lut : Vector (Vector (BitVec 16) 256) 4
  /-- `eng` (R49). -/
  eng : Engine
  /-- `cur_cmd` (R49): the accepted command word. -/
  curCmd : Word
  /-- `cur_x` (R49): the column of the pass. -/
  curX : Half
  /-- `cur_y` (R49): the row of the pass. -/
  curY : Half
  /-- `irq` (R49, R190): the interrupt output. -/
  irq : Bool
  /-- System memory (R60), in canonical form: addresses strictly rising, no entry equal to `Config.unlistedByte`.
  Plain memory at every address (log 19). -/
  mem : List Host.Cell
  /-- MEM_ADMIT (R72): where the platform answers no engine access. No step changes it. -/
  silent : List Range
  /-- MMIO_BASE (R73): the bus address of register offset 0. No step changes it. -/
  mmioBase : Nat
  /-- The MODEL's own: who moves next, oldest first (log 13). -/
  agenda : List Turn
  /-- The MODEL's own: the address of the access the port never answers, when the engine is stuck (R72, R195, log 7). -/
  waiting : Option Word
  /-- The MODEL's own: the byte events since the last acceptance, newest first (R10, R75, log 8). -/
  trace : List MemEvent
  /-- The MODEL's own: values that host stores displaced while the command was busy (R77, log 9). -/
  races : List (Word × Byte)
  /-- The MODEL's own: how many free values have been used (log 11). -/
  fresh : Nat
  /-- The MODEL's own: what the last host read returned (R47, log 12). -/
  rdata : Word
  deriving DecidableEq, Repr

/-- The LUT after reset: entry i of table c is LUT_INIT(c, i) (R200). -/
def lutReset : Vector (Vector (BitVec 16) 256) 4 :=
  tabulate 4 (fun c => tabulate 256 (fun i => Config.lutInit c i))

/-- The machine right after reset (R200, R201): every register 0, the LUT at LUT_INIT, the engine IDLE, `irq` 0.
`curCmd`, `curX`, `curY` are undefined there (U11); 0 is a DESIGN CHOICE (log 3). Memory lists nothing (log 1), every
byte answers (log 4), MMIO_BASE is 0 (log 5), nothing is on the agenda (log 13). -/
def State.reset : State where
  status := 0
  ctrl := 0
  fmt := 0
  descR := 0
  descG := 0
  descB := 0
  descA := 0
  maxval := 0
  dim := 0
  devBase := 0
  devStride := 0
  devOfs := 0
  imgBase := 0
  imgStride := 0
  outBase := 0
  pix := 0
  dword := 0
  xy := 0
  maddr := 0
  res := 0
  ldata := 0
  lut := lutReset
  eng := .idle
  curCmd := 0
  curX := 0
  curY := 0
  irq := false
  mem := []
  silent := []
  mmioBase := 0
  agenda := []
  waiting := none
  trace := []
  races := []
  fresh := 0
  rdata := 0

end Sys2Proof.Machine
end

