-- ==== Sys2Proof/Machine/Memory.lean ====
section
/-! DEFINITION. System memory as a list of listed bytes in one canonical form (R60). The smallest unit is the byte, as
the port's single-copy atomicity is (R70); wider accesses are built in Ops.lean. DESIGN CHOICE (log 19): every address
is plain memory, though R71 does not assume it idempotent. -/

namespace Sys2Proof.Machine

/-- The byte at address `a`: the listed one, else what an unlisted address reads as (log 1). -/
def Memory.read : List Host.Cell → Nat → Byte
  | [], _ => Config.unlistedByte
  | (k, v) :: rest, a => if k = a then v else Memory.read rest a

/-- List the byte `v` at `a`, keeping addresses in rising order. -/
def Memory.put : List Host.Cell → Nat → Byte → List Host.Cell
  | [], a, v => [(a, v)]
  | (k, u) :: rest, a, v =>
    if a < k then (a, v) :: (k, u) :: rest
    else if a = k then (a, v) :: rest
    else (k, u) :: Memory.put rest a v

/-- Store `v` at `a`. Storing what an unlisted address reads as removes the entry, so that equal memories are equal
lists. -/
def Memory.write (m : List Host.Cell) (a : Nat) (v : Byte) : List Host.Cell :=
  if v = Config.unlistedByte then m.filter (fun c => c.1 ≠ a) else Memory.put m a v

/-- The canonical form: addresses strictly rising and below 2^32, no entry equal to what an unlisted address reads
as. -/
def Memory.wf : List Host.Cell → Bool
  | [] => true
  | (a, v) :: rest =>
    decide (v ≠ Config.unlistedByte) && decide (a < 2 ^ 32) && rest.all (fun c => decide (a < c.1)) && Memory.wf rest

end Sys2Proof.Machine
end

