-- ==== Sys2Proof/Machine/Flags.lean ====
section
/-! DEFINITION. The status bits (R26), the error codes (R180), IE (R27) and the interrupt output (R190). The PFC has no
flags or condition codes; STATUS is written only by the lifecycle and the error effect (R51). -/

namespace Sys2Proof.Machine

/-- What a command raises (R180). -/
inductive CmdError where
  /-- MAXVAL = 0 (R182). -/
  | header
  /-- The device format fails (R181). -/
  | format
  /-- The command word is illegal (R183). -/
  | illegal
  /-- RAMP with an indexed visual kind (R184). -/
  | kind
  deriving DecidableEq, Repr

/-- The code an error leaves in STATUS.ERR (R180). -/
def CmdError.code : CmdError → BitVec 4
  | .header => 1
  | .format => 2
  | .illegal => 3
  | .kind => 4

/-- STATUS.BUSY, bit 0 (R26). -/
def State.busy (s : State) : Bool := s.status.getLsbD 0

/-- STATUS.DONE, bit 1 (R26). -/
def State.done (s : State) : Bool := s.status.getLsbD 1

/-- STATUS.OVR, bit 2 (R26). -/
def State.ovr (s : State) : Bool := s.status.getLsbD 2

/-- STATUS.ERR, bits 7:4 (R26). -/
def State.err (s : State) : BitVec 4 := s.status.extractLsb' 4 4

/-- CTRL.IE, bit 0 (R27). -/
def State.ie (s : State) : Bool := s.ctrl.getLsbD 0

/-- STATUS at acceptance: BUSY <- 1, DONE <- 0, ERR <- 0 (R170). -/
def statusAccept (v : Word) : Word := (v &&& ~~~0xF2#32) ||| 0x01#32

/-- STATUS at completion without an error: BUSY <- 0, DONE <- 1, ERR unchanged (R172). -/
def statusComplete (v : Word) : Word := (v &&& ~~~0x01#32) ||| 0x02#32

/-- STATUS at completion with an error: BUSY <- 0, DONE <- 1, ERR <- code (R172). -/
def statusRaise (e : CmdError) (v : Word) : Word := (v &&& ~~~0xF1#32) ||| 0x02#32 ||| (e.code.setWidth 32 <<< 4)

/-- STATUS when a host write is dropped: OVR <- 1 (R171). -/
def statusOverrun (v : Word) : Word := v ||| 0x04#32

/-- STATUS after a host write of `w` to it: DONE <- DONE & ~w[1], OVR <- OVR & ~w[2], no other bit (R26). -/
def statusClear (w v : Word) : Word := v &&& ~~~(w &&& 0x06#32)

/-- The interrupt output is a level: `irq = STATUS.DONE and CTRL.IE` (R190). Every operation that writes DONE or IE
ends with this one. -/
def State.syncIrq (s : State) : State := { s with irq := s.done && s.ie }

end Sys2Proof.Machine
end

