-- ==== Sys2Proof/Machine/Operands.lean ====
section
/-! DEFINITION. The fields of the registers (10_state.md), the checks of 60_exceptions.md R181, R182, R184, and the
datapath functions of the four units: 40_pixel_value.md, 41_sample_codec.md, 42_bitfield_packer.md, 43_colormap.md, and
the addresses of 44_raster.md. Arithmetic is on exact naturals, truncated only where a rule says so (R8). -/

namespace Sys2Proof.Machine

/-- `mask(w) = 2^w - 1` (R7). -/
def mask (w : Nat) : Nat := 2 ^ w - 1

/-- FMT.BPP, bits 2:0: bytes per device pixel (R28, R130). -/
def State.bpp (s : State) : Nat := (s.fmt.extractLsb' 0 3).toNat

/-- FMT.VIS, bits 6:4: the visual kind (R28, R29). -/
def State.vis (s : State) : Nat := (s.fmt.extractLsb' 4 3).toNat

/-- DESC_c, the descriptor register of channel c (R30, R92). -/
def State.descWord (s : State) : Channel → Word
  | .red => s.descR
  | .green => s.descG
  | .blue => s.descB
  | .alpha => s.descA

/-- DESC_c.OFF, bits 4:0 (R30, R130). -/
def State.off (s : State) (c : Channel) : Nat := ((s.descWord c).extractLsb' 0 5).toNat

/-- DESC_c.WID, bits 11:8 (R30, R130). -/
def State.wid (s : State) (c : Channel) : Nat := ((s.descWord c).extractLsb' 8 4).toNat

/-- MAXVAL.MAXVAL, bits 15:0 (R31). -/
def State.maxv (s : State) : Nat := (s.maxval.extractLsb' 0 16).toNat

/-- DIM.WIDTH, bits 15:0 (R32). -/
def State.width (s : State) : Nat := (s.dim.extractLsb' 0 16).toNat

/-- DIM.HEIGHT, bits 31:16 (R32). -/
def State.height (s : State) : Nat := (s.dim.extractLsb' 16 16).toNat

/-- DEV_OFS.XOFF, bits 15:0 (R35). -/
def State.xoff (s : State) : Nat := (s.devOfs.extractLsb' 0 16).toNat

/-- DEV_OFS.YOFF, bits 31:16 (R35). -/
def State.yoff (s : State) : Nat := (s.devOfs.extractLsb' 16 16).toNat

/-- XY.X, bits 15:0 (R41). -/
def State.xcoord (s : State) : Nat := (s.xy.extractLsb' 0 16).toNat

/-- XY.Y, bits 31:16 (R41). -/
def State.ycoord (s : State) : Nat := (s.xy.extractLsb' 16 16).toNat

/-- LDATA.LDATA, bits 15:0 (R44). -/
def State.ldataEntry (s : State) : BitVec 16 := s.ldata.extractLsb' 0 16

/-- `isDirect(VIS)`: true-color or direct-color (R29). -/
def isDirect (vis : Nat) : Bool := vis == 2 || vis == 4

/-- `isIndexed(VIS)`: pseudo-color or static-pseudo-color (R29). -/
def isIndexed (vis : Nat) : Bool := vis == 3 || vis == 5

/-- `FormatOK()`: BPP in 1..4, a supported VIS, every WID at most 8 (R181). Offsets are not checked (D6). -/
def State.formatOk (s : State) : Bool :=
  decide (1 ≤ s.bpp) && decide (s.bpp ≤ 4) && (isDirect s.vis || isIndexed s.vis) &&
    decide (s.wid .red ≤ Config.widMax) && decide (s.wid .green ≤ Config.widMax) &&
    decide (s.wid .blue ≤ Config.widMax) && decide (s.wid .alpha ≤ Config.widMax)

/-- `HeaderOK()`: MAXVAL is not 0 (R182). -/
def State.headerOk (s : State) : Bool := s.maxv != 0

/-- `make(r, g, b, a)`: each input masked to its low 8 bits, A[31:24] R[23:16] G[15:8] B[7:0] (R110). -/
def make (r g b a : Nat) : Word :=
  BitVec.ofNat 8 a ++ BitVec.ofNat 8 r ++ BitVec.ofNat 8 g ++ BitVec.ofNat 8 b

/-- `chan(p, c)`: channel c of the pixel value p, unmodified (R111). -/
def chan (p : Word) : Channel → Byte
  | .red => p.extractLsb' 16 8
  | .green => p.extractLsb' 8 8
  | .blue => p.extractLsb' 0 8
  | .alpha => p.extractLsb' 24 8

/-- `sampleWidth(m)`: 2 bytes when m > 255, else 1 (R120). -/
def sampleWidth (m : Nat) : Nat := if 255 < m then 2 else 1

/-- `scale(s, m)`: the sample s of a stream of maxval m, before masking (R121). -/
def scale (s m : Nat) : Nat :=
  if m = 255 then s
  else if m = 65535 then s >>> 8
  else s * 255 / m

/-- Sample k of a triplet whose bytes are `bs`: one byte, or two bytes big-endian (R64, R121). -/
def sampleOf (sw : Nat) (bs : List Byte) (k : Nat) : Nat :=
  if sw = 1 then (bs.getD k 0).toNat
  else (bs.getD (2 * k) 0).toNat * 256 + (bs.getD (2 * k + 1) 0).toNat

/-- The pixel value of a triplet whose bytes are `bs`, for maxval m: alpha is 0 (R121). -/
def decodeTriplet (m : Nat) (bs : List Byte) : Word :=
  make (scale (sampleOf (sampleWidth m) bs 0) m) (scale (sampleOf (sampleWidth m) bs 1) m)
    (scale (sampleOf (sampleWidth m) bs 2) m) 0

/-- The three output bytes of a pixel value: red, green, blue, alpha never written (R65, R123). -/
def encodeTriplet (p : Word) : List Byte := [chan p .red, chan p .green, chan p .blue]

/-- `extractChannel(w, off, wid)`: the field, left-justified in 8 bits, cut at bit 31 of w (R131). -/
def extractChannel (w : Word) (off wid : Nat) : Byte :=
  BitVec.ofNat 8 (((w.toNat >>> off) &&& mask wid) <<< (8 - wid))

/-- `packChannel(v, off, wid)`: the top wid bits of v at bit off, cut at bit 31 (R132). -/
def packChannel (v : Byte) (off wid : Nat) : Word :=
  BitVec.ofNat 32 ((v.toNat >>> (8 - wid)) <<< off)

/-- The contribution of channel c of the pixel value p to a device word (R132, R133). -/
def State.packField (s : State) (p : Word) (c : Channel) : Word := packChannel (chan p c) (s.off c) (s.wid c)

/-- `packWord(p)`: the four contributions ORed, not masked to bpp bytes (R133). -/
def State.packWord (s : State) (p : Word) : Word :=
  s.packField p .red ||| s.packField p .green ||| s.packField p .blue ||| s.packField p .alpha

/-- `bppMask(n) = mask(8 * n)` (R134). -/
def bppMask (n : Nat) : Word := BitVec.ofNat 32 (mask (8 * n))

/-- Channel c of the device word w (R131, R135). -/
def State.extractField (s : State) (w : Word) (c : Channel) : Byte := extractChannel w (s.off c) (s.wid c)

/-- `unpackWord(w)`: every channel of w masked to bpp bytes (R135). -/
def State.unpackWord (s : State) (w : Word) : Word :=
  make (s.extractField (w &&& bppMask s.bpp) .red).toNat (s.extractField (w &&& bppMask s.bpp) .green).toNat
    (s.extractField (w &&& bppMask s.bpp) .blue).toNat (s.extractField (w &&& bppMask s.bpp) .alpha).toNat

/-- `addressOf(x, y)`: the offset of a pixel in the device buffer, mod 2^32 (R136). -/
def State.addressOf (s : State) (x y : Nat) : Word :=
  BitVec.ofNat 32 ((y + s.yoff) * s.devStride.toNat + (x + s.xoff) * s.bpp)

/-- `devAddr(x, y)`: the system-memory address of a device pixel (R136). -/
def State.devAddr (s : State) (x y : Nat) : Word :=
  BitVec.ofNat 32 (s.devBase.toNat + (s.addressOf x y).toNat)

/-- `imgAddr(x, y)`: the address of an image triplet (R161). -/
def State.imgAddr (s : State) (x y : Nat) : Word :=
  BitVec.ofNat 32 (s.imgBase.toNat + y * s.imgStride.toNat + x * 3 * sampleWidth s.maxv)

/-- `outAddr(x, y)`: the address of an output triplet (R162). -/
def State.outAddr (s : State) (x y : Nat) : Word :=
  BitVec.ofNat 32 (s.outBase.toNat + (y * s.width + x) * 3)

/-- The bytes of a device word that go to memory, lowest first: n of them (R63, R138). -/
def wordBytes (n : Nat) (w : Word) : List Byte :=
  (List.range n).map (fun k => w.extractLsb' (8 * k) 8)

/-- The little-endian value of a list of bytes (R9, R63). -/
def leValue : List Byte → Nat
  | [] => 0
  | b :: bs => b.toNat + 256 * leValue bs

/-- `ramp(L, i) = (i * 65535) div (2^L - 1)` (R150). -/
def rampEntry (width i : Nat) : BitVec 16 := BitVec.ofNat 16 (i * 65535 / (2 ^ width - 1))

/-- The row-major visiting order of a pass: top row first, left to right (R160). -/
def rasterOrder (w h : Nat) : List (Nat × Nat) :=
  (List.range h).flatMap (fun y => (List.range w).map (fun x => (x, y)))

/-- The number of channel c, which selects its LUT table (R92). -/
def Channel.toFin (c : Channel) : Fin 4 :=
  match c with
  | .red => 0
  | .green => 1
  | .blue => 2
  | .alpha => 3

/-- `lut[c][i]` (R9, R48). -/
def State.lutEntry (s : State) (c : Channel) (i : BitVec 8) : BitVec 16 :=
  (s.lut.get (Channel.toFin c)).get i.toFin

end Sys2Proof.Machine
end

