-- ==== Sys2Proof/Machine/Ops.lean ====
section
/-! DEFINITION. The named operations the meanings are made of: the command lifecycle (45_control.md R170 to R173), the
error effect (60_exceptions.md R187), the byte port into system memory (00_scope.md R9, 20_memory.md) and the LUT
writes. -/

namespace Sys2Proof.Machine

/-- Acceptance of the word v (R170): one indivisible step. The model's own records of the last command (byte events,
displaced bytes, an unanswered access) start empty. -/
def State.accept (v : Word) (s : State) : State :=
  { s with
    curCmd := v, eng := .run, status := statusAccept s.status, waiting := none, trace := [], races := [] }.syncIrq

/-- Completion without an error (R172): ERR is left as it is. -/
def State.complete (s : State) : State :=
  { s with eng := .idle, status := statusComplete s.status, races := [] }.syncIrq

/-- `raise CmdError(e)` and the completion that follows (R172, R187): the one operation by which a command ends with an
error. It saves no state but ERR and transfers no control (R191). -/
def State.raise (e : CmdError) (s : State) : State :=
  { s with eng := .idle, status := statusRaise e s.status, races := [] }.syncIrq

/-- The acknowledgement of a completion, which stands where other machines return from a trap (R192): a host write of
w to STATUS clears DONE and OVR where w has a 1 (R26). -/
def State.acknowledge (w : Word) (s : State) : State :=
  { s with status := statusClear w s.status }.syncIrq

/-- A host write dropped because BUSY = 1: OVR <- 1 and nothing else (R171, R189). -/
def State.overrun (s : State) : State := { s with status := statusOverrun s.status }

/-- What a piece of engine work comes to: a value and the state after it, or the state in which an access was never
answered (R72). -/
inductive Run (α : Type) where
  | ok (a : α) (s : State)
  | hung (s : State)
  deriving Repr

/-- Do one piece of work, then the next; a hung access ends the work. -/
def Run.bind {α β : Type} (r : Run α) (f : α → State → Run β) : Run β :=
  match r with
  | .ok a s => f a s
  | .hung s => .hung s

/-- The outcome of a command whose work is done: completion, or the stuck state as it stands (R172, R195). -/
def Run.finish (r : Run Unit) : Host.Outcome State Fault Refusal :=
  match r with
  | .ok _ s => .next s.complete
  | .hung s => .next s

/-- Do `f` for every member of the list, in its order. -/
def forEach {α : Type} (f : α → State → Run Unit) : List α → State → Run Unit
  | [], s => .ok () s
  | a :: rest, s => (f a s).bind (fun _ t => forEach f rest t)

/-- MEM_ADMIT(a): the platform's memory answers an engine access at a (R6, R72). -/
def State.admits (s : State) (a : Word) : Bool :=
  s.silent.all (fun r => !(decide (r.lo.toNat ≤ a.toNat) && decide (a.toNat ≤ r.hi.toNat)))

/-- The values that racing host stores displaced at a, latest first (R77). -/
def State.displaced (s : State) (a : Word) : List Byte :=
  (s.races.filter (fun c => c.1 == a)).map (fun c => c.2)

/-- Whether an address holds an unspecified byte for the running pass (R81): the overlap of its source and its
destination. -/
abbrev Overlap := Word → Bool

/-- Commands other than the passes have no overlap (R212). -/
def noOverlap : Overlap := fun _ => false

/-- `MemRead8(a)` (R9): one byte event of the port.
 * an access the platform does not answer hangs (R72);
 * a byte in the overlap of a pass is any value (R81);
 * a byte the host stored to since acceptance is any value the writers could have left (R77);
 * else it is the byte memory holds.
DESIGN CHOICE (log 19): memory is plain, where R71 does not assume it idempotent: the read changes no byte, and a
second read returns the same. What R71 gives a region with side effects, each access once, is the event. -/
def portRead (free : Overlap) (a : Word) (s : State) : Run Byte :=
  if s.admits a then
    if free a then
      .ok (Config.freeByte s.fresh)
        { s with fresh := s.fresh + 1, trace := .read a (Config.freeByte s.fresh) :: s.trace }
    else
      match s.displaced a with
      | [] => .ok (Memory.read s.mem a.toNat) { s with trace := .read a (Memory.read s.mem a.toNat) :: s.trace }
      | vs =>
        .ok (Config.freeChoice s.fresh (Memory.read s.mem a.toNat) vs)
          { s with
            fresh := s.fresh + 1,
            trace := .read a (Config.freeChoice s.fresh (Memory.read s.mem a.toNat) vs) :: s.trace }
  else .hung { s with waiting := some a }

/-- The port leaves v at a: the byte, and the write event, which carries that byte (log 17). DESIGN CHOICE (log 19):
no other byte changes, where R71 allows a region with write side effects. -/
def State.storeByte (s : State) (a : Word) (v : Byte) : State :=
  { s with mem := Memory.write s.mem a.toNat v, trace := .write a v :: s.trace }

/-- `MemWrite8(a, v)` (R9): one byte event of the port, under the same three cases. In the overlap of a pass the byte
left is any value (R81); where the host stored since acceptance it is either writer's value (R77). DESIGN CHOICE (log 17):
the event carries the byte that is left, which in those two cases need not be v; and memory is plain, without the
side effects R71 allows (log 19). -/
def portWrite (free : Overlap) (a : Word) (v : Byte) (s : State) : Run Unit :=
  if s.admits a then
    if free a then .ok () ({ s with fresh := s.fresh + 1 }.storeByte a (Config.freeByte s.fresh))
    else
      match s.displaced a with
      | [] => .ok () (s.storeByte a v)
      | _ =>
        .ok () ({ s with fresh := s.fresh + 1 }.storeByte a
          (Config.freeChoice s.fresh v [Memory.read s.mem a.toNat]))
  else .hung { s with waiting := some a }

/-- The n bytes at a, a + 1, ..., in that order; addresses wrap mod 2^32 (R9, R62). -/
def readBytes (free : Overlap) : Nat → Word → State → Run (List Byte)
  | 0, _, s => .ok [] s
  | n + 1, a, s =>
    (portRead free a s).bind fun b t =>
      (readBytes free n (a + 1) t).bind fun bs u => .ok (b :: bs) u

/-- Store the bytes at a, a + 1, ..., in that order; addresses wrap mod 2^32 (R9, R62). -/
def writeBytes (free : Overlap) : Word → List Byte → State → Run Unit
  | _, [], s => .ok () s
  | a, b :: bs, s => (portWrite free a b s).bind fun _ t => writeBytes free (a + 1) bs t

/-- `decodeAt(a, m)`: all `3 * sampleWidth(m)` bytes are read, in increasing address order (R121, D33). -/
def decodeAt (free : Overlap) (a : Word) (m : Nat) (s : State) : Run Word :=
  (readBytes free (3 * sampleWidth m) a s).bind fun bs t => .ok (decodeTriplet m bs) t

/-- `encodeAt(a, p)`: red, green, blue at a, a + 1, a + 2 (R123). -/
def encodeAt (free : Overlap) (a : Word) (p : Word) (s : State) : Run Unit :=
  writeBytes free a (encodeTriplet p) s

/-- `readDevicePixel(a)`: exactly bpp bytes, little-endian, zero-extended (R137). -/
def readDevicePixel (free : Overlap) (a : Word) (s : State) : Run Word :=
  (readBytes free s.bpp a s).bind fun bs t => .ok (BitVec.ofNat 32 (leValue bs)) t

/-- `writeDevicePixel(a, w)`: exactly bpp bytes, little-endian (R138). -/
def writeDevicePixel (free : Overlap) (a w : Word) (s : State) : Run Unit :=
  writeBytes free a (wordBytes s.bpp (w &&& bppMask s.bpp)) s

/-- `lut[c][i] <- v` (R9). -/
def State.setLut (s : State) (c : Channel) (i : BitVec 8) (v : BitVec 16) : State :=
  { s with
    lut := s.lut.set (Channel.toFin c) ((s.lut.get (Channel.toFin c)).set i.toNat v (by exact i.isLt))
      (Channel.toFin c).isLt }

/-- The linear ramp of channel c (R151): entries 0 to 2^wid - 1 where wid is at least 1, the others as they were. -/
def State.rampTable (s : State) (c : Channel) : Vector (BitVec 16) 256 :=
  if 1 ≤ s.wid c then
    tabulate 256 (fun i => if i < 2 ^ s.wid c then rampEntry (s.wid c) i else s.lutEntry c (BitVec.ofNat 8 i))
  else s.lut.get (Channel.toFin c)

/-- The four channels in the order red, green, blue, alpha (R133, R151). -/
def channelOfNat : Nat → Channel
  | 0 => .red
  | 1 => .green
  | 2 => .blue
  | _ => .alpha

/-- The LUT after RAMP (R151). -/
def State.rampLut (s : State) : State :=
  { s with lut := tabulate 4 (fun c => s.rampTable (channelOfNat c)) }

end Sys2Proof.Machine
end

