-- ==== Sys2Proof/Machine/Bank.lean ====
section
/-! DEFINITION. The register window as the host sees it (10_state.md R21 to R27, R46, R47; 45_control.md R170, R171). -/

namespace Sys2Proof.Machine

/-- The offset of a register from MMIO_BASE (R21). -/
def Reg.offset : Reg → Nat
  | .cmd => 0x00
  | .status => 0x04
  | .ctrl => 0x08
  | .fmt => 0x0C
  | .descR => 0x10
  | .descG => 0x14
  | .descB => 0x18
  | .descA => 0x1C
  | .maxval => 0x20
  | .dim => 0x24
  | .devBase => 0x28
  | .devStride => 0x2C
  | .devOfs => 0x30
  | .imgBase => 0x34
  | .imgStride => 0x38
  | .outBase => 0x3C
  | .pix => 0x40
  | .dword => 0x44
  | .xy => 0x48
  | .maddr => 0x4C
  | .res => 0x50
  | .ldata => 0x54

/-- Every named register (R21). -/
def Reg.all : List Reg :=
  [.cmd, .status, .ctrl, .fmt, .descR, .descG, .descB, .descA, .maxval, .dim, .devBase, .devStride, .devOfs,
    .imgBase, .imgStride, .outBase, .pix, .dword, .xy, .maddr, .res, .ldata]

/-- The register at an offset; none where the offset is unmapped (R23). -/
def Reg.ofOffset (k : Nat) : Option Reg := Reg.all.find? (fun r => r.offset == k)

/-- The bits of a register that some field of R21 names; the others are reserved (R24). -/
def Reg.fields : Reg → Word
  | .cmd => 0x00000000#32
  | .status => 0x000000F7#32
  | .ctrl => 0x00000001#32
  | .fmt => 0x00000077#32
  | .descR | .descG | .descB | .descA => 0x00000F1F#32
  | .maxval | .ldata => 0x0000FFFF#32
  | .dim | .devBase | .devStride | .devOfs | .imgBase | .imgStride | .outBase => 0xFFFFFFFF#32
  | .pix | .dword | .xy | .maddr | .res => 0xFFFFFFFF#32

/-- The stored word of a register; CMD has no storage (R25). -/
def State.stored (s : State) : Reg → Word
  | .cmd => 0
  | .status => s.status
  | .ctrl => s.ctrl
  | .fmt => s.fmt
  | .descR => s.descR
  | .descG => s.descG
  | .descB => s.descB
  | .descA => s.descA
  | .maxval => s.maxval
  | .dim => s.dim
  | .devBase => s.devBase
  | .devStride => s.devStride
  | .devOfs => s.devOfs
  | .imgBase => s.imgBase
  | .imgStride => s.imgStride
  | .outBase => s.outBase
  | .pix => s.pix
  | .dword => s.dword
  | .xy => s.xy
  | .maddr => s.maddr
  | .res => s.res
  | .ldata => s.ldata

/-- What a register reads as: its fields, reserved bits 0 (R24, R47). -/
def State.readReg (s : State) (r : Reg) : Word := s.stored r &&& r.fields

/-- A register whose value the running command may be changing, so that a read while BUSY is any value (R47). -/
def Reg.volatile : Reg → Bool
  | .pix | .dword | .res => true
  | .cmd | .status | .ctrl | .fmt | .descR | .descG | .descB | .descA | .maxval | .dim => false
  | .devBase | .devStride | .devOfs | .imgBase | .imgStride | .outBase | .xy | .maddr | .ldata => false

/-- Store v, less its reserved bits, in a configuration or data register (R24, R46). CMD, STATUS, CTRL and RES are not
written this way. -/
def State.setReg (s : State) (r : Reg) (v : Word) : State :=
  match r with
  | .cmd | .status | .ctrl | .res => s
  | .fmt => { s with fmt := v &&& r.fields }
  | .descR => { s with descR := v &&& r.fields }
  | .descG => { s with descG := v &&& r.fields }
  | .descB => { s with descB := v &&& r.fields }
  | .descA => { s with descA := v &&& r.fields }
  | .maxval => { s with maxval := v &&& r.fields }
  | .dim => { s with dim := v &&& r.fields }
  | .devBase => { s with devBase := v &&& r.fields }
  | .devStride => { s with devStride := v &&& r.fields }
  | .devOfs => { s with devOfs := v &&& r.fields }
  | .imgBase => { s with imgBase := v &&& r.fields }
  | .imgStride => { s with imgStride := v &&& r.fields }
  | .outBase => { s with outBase := v &&& r.fields }
  | .pix => { s with pix := v &&& r.fields }
  | .dword => { s with dword := v &&& r.fields }
  | .xy => { s with xy := v &&& r.fields }
  | .maddr => { s with maddr := v &&& r.fields }
  | .ldata => { s with ldata := v &&& r.fields }

/-- A host write to CTRL: IE, whatever BUSY is (R27); `irq` follows (R190). -/
def State.writeCtrl (s : State) (v : Word) : State :=
  { s with ctrl := v &&& Reg.fields .ctrl }.syncIrq

/-- A host write of v to a register.
 * STATUS and CTRL are written whatever BUSY is (R26, R27);
 * RES ignores it at all times (R43);
 * any other register drops it while BUSY, which sets OVR (R171), CMD included;
 * CMD accepts it as a command otherwise (R170), and the rest store it (R46). -/
def State.writeReg (s : State) (r : Reg) (v : Word) : State :=
  match r with
  | .status => s.acknowledge v
  | .ctrl => s.writeCtrl v
  | .res => s
  | .cmd => if s.busy then s.overrun else s.accept v
  | .fmt | .descR | .descG | .descB | .descA | .maxval | .dim | .devBase | .devStride | .devOfs
  | .imgBase | .imgStride | .outBase | .pix | .dword | .xy | .maddr | .ldata =>
    if s.busy then s.overrun else s.setReg r v

/-- A host read of a register: `rdata` is what the bus returns (R47). -/
def State.readTo (s : State) (r : Reg) : State :=
  if s.busy && r.volatile then { s with rdata := Config.freeWord s.fresh, fresh := s.fresh + 1 }
  else { s with rdata := s.readReg r }

/-- The offset of a host access in the register window, or why the access has no meaning: outside the window it reaches
no register (log 5); of another size than 4 or not aligned it is refused (R22). -/
def busOffset (s : State) (addr size : Nat) : Except (Fault ⊕ Refusal) Nat :=
  if addr < s.mmioBase ∨ s.mmioBase + Config.mmioSize ≤ addr then .error (.inl .outsideWindow)
  else if size ≠ 4 ∨ addr % 4 ≠ 0 ∨ (addr - s.mmioBase) % 4 ≠ 0 then .error (.inr .hostAccessShape)
  else .ok (addr - s.mmioBase)

/-- A host write through the register window; an unmapped offset ignores it (R23). -/
def hostWrite (addr size : Nat) (v : Word) (s : State) : Host.Outcome State Fault Refusal :=
  match busOffset s addr size with
  | .error (.inl f) => .fault f
  | .error (.inr r) => .refused r
  | .ok k =>
    match Reg.ofOffset k with
    | some r => .next (s.writeReg r v)
    | none => .next s

/-- A host read through the register window; an unmapped offset reads 0 (R23). -/
def hostRead (addr size : Nat) (s : State) : Host.Outcome State Fault Refusal :=
  match busOffset s addr size with
  | .error (.inl f) => .fault f
  | .error (.inr r) => .refused r
  | .ok k =>
    match Reg.ofOffset k with
    | some r => .next (s.readTo r)
    | none => .next { s with rdata := 0 }

/-- What a host that repeats a read does with its outcome: while bit 0 of what it read is 1, the engine moves and the
host reads again; else it goes on (R97, log 18). -/
def State.pollAgain (addr : Nat) (s : State) : State :=
  if s.rdata.getLsbD 0 then { s with agenda := .engine :: .busPoll addr :: s.agenda } else s

/-- One read of the loop of `wait` (R97). -/
def hostPoll (addr : Nat) (s : State) : Host.Outcome State Fault Refusal :=
  match hostRead addr 4 s with
  | .next t => .next (t.pollAgain addr)
  | .fault f => .fault f
  | .refused r => .refused r

end Sys2Proof.Machine
end

