-- ==== Sys2Proof/Machine/Footprint.lean ====
section
/-! DEFINITION. The bytes the passes read and write (R69, R71, R213), where source and destination of a pass overlap
(R81), and the bytes a running command writes (R76, R207). A row of a region is contiguous mod 2^32, so one comparison
against its first byte decides membership. -/

namespace Sys2Proof.Machine

/-- Byte a is one of the n bytes at base, base + 1, ..., mod 2^32 (R62). -/
def inSpan (base : Word) (n : Nat) (a : Word) : Bool := decide ((a - base).toNat < n)

/-- Byte a is read by TODEV: a sample byte of some pixel of the pass (R161, R213). -/
def State.inImage (s : State) (a : Word) : Bool :=
  (List.range s.height).any (fun y => inSpan (s.imgAddr 0 y) (s.width * (3 * sampleWidth s.maxv)) a)

/-- Byte a is a device byte of some pixel of the pass (R136, R213). -/
def State.inDevice (s : State) (a : Word) : Bool :=
  (List.range s.height).any (fun y => inSpan (s.devAddr 0 y) (s.width * s.bpp) a)

/-- Byte a is written by FROMDEV: an output byte of some pixel of the pass (R162, R213). -/
def State.inOutput (s : State) (a : Word) : Bool := inSpan s.outBase (3 * s.width * s.height) a

/-- The overlap of a TODEV pass: image bytes that are device bytes too (R81). -/
def State.todevOverlap (s : State) : Overlap := fun a => s.inDevice a && s.inImage a

/-- The overlap of a FROMDEV pass: device bytes that are output bytes too (R81). -/
def State.fromdevOverlap (s : State) : Overlap := fun a => s.inOutput a && s.inDevice a

/-- The bytes a command writes when it runs from s (R69): none where a check stops it (R187). -/
def State.commandWrites (s : State) (i : Instr) (a : Word) : Bool :=
  match i with
  | .encode => inSpan s.maddr 3 a
  | .wrpix => s.formatOk && inSpan (s.devAddr s.xcoord s.ycoord) s.bpp a
  | .todev => s.formatOk && s.headerOk && s.inDevice a
  | .fromdev => s.formatOk && s.inOutput a
  | .nop | .validate | .decode | .extract _ | .pack _ | .extw | .packw | .addr => false
  | .rdpix | .ramp | .lutwr _ _ | .lutrd _ _ => false

/-- The bytes the running command writes; an illegal word writes none (R94). -/
def State.runningWrites (s : State) (a : Word) : Bool :=
  match Sys2Proof.decode s.curCmd with
  | .ok i => s.commandWrites i a
  | .error _ => false

/-- The running command has already written byte a: a byte event of it says so (R77). -/
def State.engineWrote (s : State) (a : Word) : Bool :=
  s.trace.any (fun e =>
    match e with
    | .write b _ => b == a
    | .read _ _ => false)

end Sys2Proof.Machine
end

