-- ==== Sys2Proof/Machine/Codec.lean ====
section
/-! DEFINITION. The sample codec commands of 41_sample_codec.md: DECODE and ENCODE. -/

namespace Sys2Proof.Machine

/-- DECODE: PIX from the sample triplet at MADDR; HEADER when MAXVAL = 0, before any access (R122). The device format
is not checked (R185). -/
def execDecode (s : State) : Host.Outcome State Fault Refusal :=
  if s.headerOk then
    ((decodeAt noOverlap s.maddr s.maxv s).bind fun p t => .ok () { t with pix := p }).finish
  else .next (s.raise .header)

/-- ENCODE: R, G, B of PIX at MADDR, MADDR + 1, MADDR + 2 (R123). No check (R185). -/
def execEncode (s : State) : Host.Outcome State Fault Refusal :=
  (encodeAt noOverlap s.maddr s.pix s).finish

end Sys2Proof.Machine
end

