-- ==== Sys2Proof/Machine/Colormap.lean ====
section
/-! DEFINITION. The colormap commands of 43_colormap.md: RAMP, LUTWR, LUTRD. No other command reads or writes the LUT
(R154). -/

namespace Sys2Proof.Machine

/-- RAMP: the linear ramp of every present channel, for a direct visual kind; FORMAT, then KIND (R151, R184). -/
def execRamp (s : State) : Host.Outcome State Fault Refusal :=
  if s.formatOk then
    if isDirect s.vis then .next s.rampLut.complete
    else .next (s.raise .kind)
  else .next (s.raise .format)

/-- LUTWR ch, idx: one LUT entry from LDATA (R152). No check. -/
def execLutwr (c : Channel) (i : BitVec 8) (s : State) : Host.Outcome State Fault Refusal :=
  .next (s.setLut c i s.ldataEntry).complete

/-- LUTRD ch, idx: one LUT entry into RES (R153). No check. -/
def execLutrd (c : Channel) (i : BitVec 8) (s : State) : Host.Outcome State Fault Refusal :=
  .next { s with res := (s.lutEntry c i).setWidth 32 }.complete

end Sys2Proof.Machine
end

