-- ==== Sys2Proof/Machine/Control.lean ====
section
/-! DEFINITION. The control commands of 45_control.md: NOP and VALIDATE. -/

namespace Sys2Proof.Machine

/-- NOP: nothing but the lifecycle (R174). -/
def execNop (s : State) : Host.Outcome State Fault Refusal := .next s.complete

/-- VALIDATE: FORMAT unless FormatOK (R175). MAXVAL is not checked. -/
def execValidate (s : State) : Host.Outcome State Fault Refusal :=
  if s.formatOk then .next s.complete else .next (s.raise .format)

end Sys2Proof.Machine
end

