-- ==== Sys2Proof/Machine/Packer.lean ====
section
/-! DEFINITION. The bitfield packer commands of 42_bitfield_packer.md. Every one first checks the device format. -/

namespace Sys2Proof.Machine

/-- EXTRACT ch: channel c of the whole 32-bit DWORD into RES (R139). -/
def execExtract (c : Channel) (s : State) : Host.Outcome State Fault Refusal :=
  if s.formatOk then .next { s with res := (s.extractField s.dword c).setWidth 32 }.complete
  else .next (s.raise .format)

/-- PACK ch: the contribution of channel c of PIX into RES (R140). -/
def execPack (c : Channel) (s : State) : Host.Outcome State Fault Refusal :=
  if s.formatOk then .next { s with res := s.packField s.pix c }.complete
  else .next (s.raise .format)

/-- EXTW: DWORD, masked to bpp bytes, into PIX (R141). -/
def execExtw (s : State) : Host.Outcome State Fault Refusal :=
  if s.formatOk then .next { s with pix := s.unpackWord s.dword }.complete
  else .next (s.raise .format)

/-- PACKW: PIX into DWORD, unmasked (R142). -/
def execPackw (s : State) : Host.Outcome State Fault Refusal :=
  if s.formatOk then .next { s with dword := s.packWord s.pix }.complete
  else .next (s.raise .format)

/-- ADDR: the device-buffer offset of pixel (X, Y) into RES; DEV_BASE is not added (R143). -/
def execAddr (s : State) : Host.Outcome State Fault Refusal :=
  if s.formatOk then .next { s with res := s.addressOf s.xcoord s.ycoord }.complete
  else .next (s.raise .format)

/-- RDPIX: device pixel (X, Y) into DWORD and, unpacked, into PIX (R144). -/
def execRdpix (s : State) : Host.Outcome State Fault Refusal :=
  if s.formatOk then
    ((readDevicePixel noOverlap (s.devAddr s.xcoord s.ycoord) s).bind fun w t =>
      .ok () { t with dword := w, pix := t.unpackWord w }).finish
  else .next (s.raise .format)

/-- WRPIX: PIX packed into DWORD, then its low bpp bytes into device pixel (X, Y); no read (R145). -/
def execWrpix (s : State) : Host.Outcome State Fault Refusal :=
  if s.formatOk then
    (writeDevicePixel noOverlap (s.devAddr s.xcoord s.ycoord) (s.packWord s.pix)
      { s with dword := s.packWord s.pix }).finish
  else .next (s.raise .format)

end Sys2Proof.Machine
end

