-- ==== Sys2Proof/Machine/Raster.lean ====
section
/-! DEFINITION. The raster passes of 44_raster.md: TODEV and FROMDEV. Every check comes before the first access (R166). -/

namespace Sys2Proof.Machine

/-- The pass stands at pixel (x, y) (R49, R160). -/
def State.atPixel (s : State) (xy : Nat × Nat) : State :=
  { s with curX := BitVec.ofNat 16 xy.1, curY := BitVec.ofNat 16 xy.2 }

/-- The pass has ended: `cur_y` has reached HEIGHT (R50, log 16). -/
def State.passDone (s : State) : State := { s with curY := BitVec.ofNat 16 s.height }

/-- One pixel of TODEV: decode the image triplet into PIX, pack it into DWORD, write the device pixel (R163). -/
def todevPixel (free : Overlap) (xy : Nat × Nat) (s : State) : Run Unit :=
  (decodeAt free (s.imgAddr xy.1 xy.2) s.maxv (s.atPixel xy)).bind fun p t =>
    writeDevicePixel free (t.devAddr xy.1 xy.2) (t.packWord p) { t with pix := p, dword := t.packWord p }

/-- One pixel of FROMDEV: read the device pixel into DWORD, unpack it into PIX, write the output triplet (R164). -/
def fromdevPixel (free : Overlap) (xy : Nat × Nat) (s : State) : Run Unit :=
  (readDevicePixel free (s.devAddr xy.1 xy.2) (s.atPixel xy)).bind fun w t =>
    encodeAt free (t.outAddr xy.1 xy.2) (t.unpackWord w) { t with dword := w, pix := t.unpackWord w }

/-- TODEV: the pass from the image to the device buffer; FORMAT, then HEADER (R163). -/
def execTodev (s : State) : Host.Outcome State Fault Refusal :=
  if s.formatOk then
    if s.headerOk then
      ((forEach (todevPixel s.todevOverlap) (rasterOrder s.width s.height) s).bind fun _ t => .ok () t.passDone).finish
    else .next (s.raise .header)
  else .next (s.raise .format)

/-- FROMDEV: the pass from the device buffer to the output stream; FORMAT only, MAXVAL is not read (R164). -/
def execFromdev (s : State) : Host.Outcome State Fault Refusal :=
  if s.formatOk then
    ((forEach (fromdevPixel s.fromdevOverlap) (rasterOrder s.width s.height) s).bind fun _ t =>
      .ok () t.passDone).finish
  else .next (s.raise .format)

end Sys2Proof.Machine
end

