-- ==== Sys2Proof/Machine/Dispatch.lean ====
section
/-! DEFINITION. Which meaning each command has: one arm per row of spec/opcode_table.json (R173). -/

namespace Sys2Proof.Machine

/-- Run the accepted command (R173), from its checks to its completion, its error, or its unanswered access. -/
def exec (i : Instr) (s : State) : Host.Outcome State Fault Refusal :=
  match i with
  | .nop => Sys2Proof.Machine.execNop s
  | .validate => Sys2Proof.Machine.execValidate s
  | .decode => Sys2Proof.Machine.execDecode s
  | .encode => Sys2Proof.Machine.execEncode s
  | .extract c => Sys2Proof.Machine.execExtract c s
  | .pack c => Sys2Proof.Machine.execPack c s
  | .extw => Sys2Proof.Machine.execExtw s
  | .packw => Sys2Proof.Machine.execPackw s
  | .addr => Sys2Proof.Machine.execAddr s
  | .rdpix => Sys2Proof.Machine.execRdpix s
  | .wrpix => Sys2Proof.Machine.execWrpix s
  | .ramp => Sys2Proof.Machine.execRamp s
  | .lutwr c k => Sys2Proof.Machine.execLutwr c k s
  | .lutrd c k => Sys2Proof.Machine.execLutrd c k s
  | .todev => Sys2Proof.Machine.execTodev s
  | .fromdev => Sys2Proof.Machine.execFromdev s

end Sys2Proof.Machine
end

