-- ==== Sys2Proof/Machine/Engine.lean ====
section
/-! DEFINITION. The turns of the engine, the host and the platform: execution (R173), host accesses to system memory
(R76, R77, R207) and reset (R200, R216). -/

namespace Sys2Proof.Machine

/-- The engine moves (R173). IDLE, it has nothing to do (R194). In RUN it checks the word and runs the command, unless
an access of the command was never answered: then it makes no further step (R72, R195). -/
def engineTurn (s : State) : Host.Outcome State Fault Refusal :=
  match s.eng, s.waiting with
  | .idle, _ => .next s
  | .run, some _ => .next s
  | .run, none =>
    match Sys2Proof.decode s.curCmd with
    | .ok i => exec i s
    | .error _ => .next (s.raise .illegal)

/-- The host or another agent stores a byte (R77). While BUSY the displaced value is kept, because the engine may read
it still; and where the running command has already written the byte, either writer's value is left. No other byte
changes (log 19). -/
def State.hostStore (s : State) (a : Word) (v : Byte) : State :=
  if s.busy then
    if s.engineWrote a then
      { s with
        mem := Memory.write s.mem a.toNat (Config.freeChoice s.fresh v [Memory.read s.mem a.toNat]),
        races := (a, Memory.read s.mem a.toNat) :: s.races, fresh := s.fresh + 1 }
    else
      { s with
        mem := Memory.write s.mem a.toNat v, races := (a, Memory.read s.mem a.toNat) :: s.races }
  else { s with mem := Memory.write s.mem a.toNat v }

/-- The host reads a byte of system memory (R76). While BUSY, a byte the running command writes is any value (R207).
The read has no side effect on memory (log 19). -/
def State.hostLoad (s : State) (a : Word) : State :=
  if s.busy && s.runningWrites a then
    { s with rdata := (Config.freeByte s.fresh).setWidth 32, fresh := s.fresh + 1 }
  else { s with rdata := (Memory.read s.mem a.toNat).setWidth 32 }

/-- Do the writes of a list of byte events, oldest first. -/
def replay : List MemEvent → List Host.Cell → List Host.Cell
  | [], m => m
  | .write a v :: rest, m => replay rest (Memory.write m a.toNat v)
  | .read _ _ :: rest, m => replay rest m

/-- The byte events of t that s did not have yet, oldest first. -/
def newEvents (s t : State) : List MemEvent := (t.trace.take (t.trace.length - s.trace.length)).reverse

/-- The machine when the running command has done its first k byte accesses and no more (R216): their writes stand,
nothing after them does. -/
def State.afterAccesses (k : Nat) (s : State) : State :=
  match engineTurn s with
  | .next t =>
    { s with
      mem := replay ((newEvents s t).take k) s.mem,
      trace := ((newEvents s t).take k).reverse ++ s.trace, fresh := t.fresh }
  | .fault _ => s
  | .refused _ => s

/-- The reset event (R200): every register, the LUT and the engine as after reset; system memory, the platform and the
model's own records of the outside stay. -/
def State.hardReset (s : State) : State :=
  { State.reset with
    mem := s.mem, silent := s.silent, mmioBase := s.mmioBase, agenda := s.agenda, trace := s.trace,
    fresh := s.fresh, rdata := s.rdata }

/-- One turn of the agenda. -/
def takeTurn (t : Turn) (s : State) : Host.Outcome State Fault Refusal :=
  match t with
  | .engine => engineTurn s
  | .busWrite addr size v => hostWrite addr size v s
  | .busRead addr size => hostRead addr size s
  | .busPoll addr => hostPoll addr s
  | .memWrite a v => .next (s.hostStore a v)
  | .memRead a => .next (s.hostLoad a)
  | .reset k => .next (s.afterAccesses k).hardReset

end Sys2Proof.Machine
end

