-- ==== Sys2Proof/Machine/Pseudo.lean ====
section
/-! DEFINITION. The command syntax of 30_encoding.md R96 and the host pseudo-instructions of R97, as the turns they
expand to. -/

namespace Sys2Proof.Machine

/-- The channel operand of the command syntax (R96). -/
def Pseudo.channelText : Channel → String
  | .red => "r"
  | .green => "g"
  | .blue => "b"
  | .alpha => "a"

/-- A command as it is written (R96). -/
def Pseudo.commandText : Instr → String
  | .nop => "nop"
  | .validate => "validate"
  | .decode => "decode"
  | .encode => "encode"
  | .extract c => "extract " ++ Pseudo.channelText c
  | .pack c => "pack " ++ Pseudo.channelText c
  | .extw => "extw"
  | .packw => "packw"
  | .addr => "addr"
  | .rdpix => "rdpix"
  | .wrpix => "wrpix"
  | .ramp => "ramp"
  | .lutwr c i => "lutwr " ++ Pseudo.channelText c ++ ", " ++ toString i.toNat
  | .lutrd c i => "lutrd " ++ Pseudo.channelText c ++ ", " ++ toString i.toNat
  | .todev => "todev"
  | .fromdev => "fromdev"

/-- `wr NAME, v`: a 32-bit host write to the register, with the window at `base` (R97). -/
def Pseudo.wr (base : Nat) (r : Reg) (v : Word) : Turn := .busWrite (base + r.offset) 4 v

/-- `rd NAME` (R97). -/
def Pseudo.rd (base : Nat) (r : Reg) : Turn := .busRead (base + r.offset) 4

/-- A command line: one host write of its word to CMD (R96). -/
def Pseudo.command (base : Nat) (i : Instr) : Turn := Pseudo.wr base .cmd (encode i)

/-- `wait`: repeat `rd STATUS` until bit 0 (BUSY) reads 0 (R97). It ends only at a read of 0, so after an access that is
never answered it does not end before a reset (R195). -/
def Pseudo.wait (base : Nat) : List Turn := [.busPoll (base + Reg.status.offset)]

/-- `ack`: `wr STATUS, 0x00000006` (R97). -/
def Pseudo.ack (base : Nat) : Turn := Pseudo.wr base .status 0x00000006#32

/-- `run <command>`: the command, then `wait` (R97). -/
def Pseudo.run (base : Nat) (i : Instr) : List Turn := Pseudo.command base i :: Pseudo.wait base

/-- `fmt <bpp>, <vis>`: `wr FMT, (vis << 4) | bpp` (R97). -/
def Pseudo.fmt (base bpp vis : Nat) : Turn := Pseudo.wr base .fmt (BitVec.ofNat 32 ((vis <<< 4) ||| bpp))

/-- `desc <ch>, <off>, <wid>`: `wr DESC_<CH>, (wid << 8) | off` (R97). -/
def Pseudo.desc (base : Nat) (c : Channel) (off wid : Nat) : Turn :=
  let v := BitVec.ofNat 32 ((wid <<< 8) ||| off)
  match c with
  | .red => Pseudo.wr base .descR v
  | .green => Pseudo.wr base .descG v
  | .blue => Pseudo.wr base .descB v
  | .alpha => Pseudo.wr base .descA v

/-- `dim <w>, <h>`: `wr DIM, (h << 16) | w` (R97). -/
def Pseudo.dim (base w h : Nat) : Turn := Pseudo.wr base .dim (BitVec.ofNat 32 ((h <<< 16) ||| w))

/-- `devofs <xoff>, <yoff>`: `wr DEV_OFS, (yoff << 16) | xoff` (R97). -/
def Pseudo.devofs (base xoff yoff : Nat) : Turn := Pseudo.wr base .devOfs (BitVec.ofNat 32 ((yoff <<< 16) ||| xoff))

/-- `xy <x>, <y>`: `wr XY, (y << 16) | x` (R97). -/
def Pseudo.xy (base x y : Nat) : Turn := Pseudo.wr base .xy (BitVec.ofNat 32 ((y <<< 16) ||| x))

/-- `pix <r>, <g>, <b>, <a>`: `wr PIX, (a << 24) | (r << 16) | (g << 8) | b` (R97). -/
def Pseudo.pix (base r g b a : Nat) : Turn :=
  Pseudo.wr base .pix (BitVec.ofNat 32 ((a <<< 24) ||| (r <<< 16) ||| (g <<< 8) ||| b))

end Sys2Proof.Machine
end

