-- ==== Sys2Proof/Safety.lean ====
section
/-! DEFINITION. The terms claims about the machine are stated in: what memory holds, which accesses are answered, how a
command ends, which check a command fails first, the invariant of the machine, and what a safe run is. -/

namespace Sys2Proof.Machine

/-- The byte of system memory at address a. -/
def State.byteAt (s : State) (a : Word) : Byte := Memory.read s.mem a.toNat

/-- Address a + k, mod 2^32 (R62). -/
def plus (a : Word) (k : Nat) : Word := a + BitVec.ofNat 32 k

/-- The n bytes of system memory at a, a + 1, ..., mod 2^32. -/
def State.bytesAt (s : State) (a : Word) (n : Nat) : List Byte := (List.range n).map (fun k => s.byteAt (plus a k))

/-- The platform answers each of the n accesses at a, a + 1, ... (R72, R213). -/
def State.admitsSpan (s : State) (a : Word) (n : Nat) : Prop := ∀ k, k < n → s.admits (plus a k) = true

/-- No host store since the command was accepted: the host keeps to its duty (R77, R208). -/
def State.quiet (s : State) : Prop := s.races = []

/-- The read events of the n bytes at a, in increasing address order (R9, R75). -/
def State.readEvents (s : State) (a : Word) (n : Nat) : List MemEvent :=
  (List.range n).map (fun k => .read (plus a k) (s.byteAt (plus a k)))

/-- The write events of a list of bytes at a, in increasing address order (R9, R75). -/
def writeEvents (a : Word) (bs : List Byte) : List MemEvent :=
  (List.range bs.length).map (fun k => .write (plus a k) (bs.getD k 0))

/-- Bit j of an 8-bit left-justified field: bits `off` to `off + wid - 1` of w land in bits `8 - wid` to 7, and the
bits below them are 0 (R131 in words, bit by bit). -/
def fieldBit (w : Word) (off wid j : Nat) : Bool :=
  decide (8 - wid ≤ j) && decide (j < 8) && w.getLsbD (off + j - (8 - wid))

/-- Bit j of a channel's contribution to a device word: the top wid bits of v stand in bits `off` to `off + wid - 1`
(R132 in words, bit by bit). -/
def contribBit (v : Byte) (off wid j : Nat) : Bool :=
  decide (off ≤ j) && decide (j < off + wid) && v.getLsbD (j - off + (8 - wid))

/-- Sample k (0 red, 1 green, 2 blue) of the triplet at a, for maxval m: one byte, or two bytes big-endian when m is
above 255 (R64, R120). -/
def State.sampleAt (s : State) (a : Word) (m k : Nat) : Nat :=
  if m ≤ 255 then (s.byteAt (plus a k)).toNat
  else (s.byteAt (plus a (2 * k))).toNat * 256 + (s.byteAt (plus a (2 * k + 1))).toNat

/-- The pixel value of the image triplet of pixel (x, y) (R121, R161). -/
def State.imagePixel (s : State) (x y : Nat) : Word :=
  decodeTriplet s.maxv (s.bytesAt (s.imgAddr x y) (3 * sampleWidth s.maxv))

/-- The device word of pixel (x, y) (R137). -/
def State.deviceWord (s : State) (x y : Nat) : Word :=
  BitVec.ofNat 32 (leValue (s.bytesAt (s.devAddr x y) s.bpp))

/-- The byte events of one pixel of TODEV: the triplet's reads, then the device pixel's writes (R75, R163). -/
def State.todevEvents (s : State) (xy : Nat × Nat) : List MemEvent :=
  s.readEvents (s.imgAddr xy.1 xy.2) (3 * sampleWidth s.maxv) ++
    writeEvents (s.devAddr xy.1 xy.2) (wordBytes s.bpp (s.packWord (s.imagePixel xy.1 xy.2)))

/-- The byte events of one pixel of FROMDEV: the device pixel's reads, then red, green, blue (R75, R164). -/
def State.fromdevEvents (s : State) (xy : Nat × Nat) : List MemEvent :=
  s.readEvents (s.devAddr xy.1 xy.2) s.bpp ++
    writeEvents (s.outAddr xy.1 xy.2) (encodeTriplet (s.unpackWord (s.deviceWord xy.1 xy.2)))

/-- Pixel (x, y) comes before pixel (x', y') in a pass (R75, R160). -/
def before (x y x' y' : Nat) : Prop := y < y' ∨ (y = y' ∧ x < x')

/-- Completion without an error, from s to t (R172, R190): BUSY 0, DONE 1, ERR and OVR and the reserved bits of STATUS
as they were, the engine IDLE, `irq` at its level. -/
structure Completed (s t : State) : Prop where
  busy : t.busy = false
  done : t.done = true
  err : t.err = s.err
  ovr : t.ovr = s.ovr
  rest : t.status &&& 0xFFFFFF08#32 = s.status &&& 0xFFFFFF08#32
  eng : t.eng = .idle
  irq : t.irq = s.ie
  races : t.races = []

/-- Completion with the error e, from s to t (R172, R187): as completion, ERR holding the code of e, and nothing else
changed at all. -/
structure Errored (e : CmdError) (s t : State) : Prop where
  busy : t.busy = false
  done : t.done = true
  err : t.err = e.code
  ovr : t.ovr = s.ovr
  rest : t.status &&& 0xFFFFFF08#32 = s.status &&& 0xFFFFFF08#32
  eng : t.eng = .idle
  irq : t.irq = s.ie
  frame : t = { s with status := t.status, eng := t.eng, irq := t.irq, races := [] }

/-- The checks of R185 beyond ILLEGAL, in the order R186 gives them: which error a command reports, if any. -/
def firstError (i : Instr) (s : State) : Option CmdError :=
  match i with
  | .nop | .encode | .lutwr _ _ | .lutrd _ _ => none
  | .decode => if s.headerOk then none else some .header
  | .validate | .extract _ | .pack _ | .extw | .packw | .addr | .rdpix | .wrpix | .fromdev =>
    if s.formatOk then none else some .format
  | .ramp => if s.formatOk then (if isIndexed s.vis then some .kind else none) else some .format
  | .todev => if s.formatOk then (if s.headerOk then none else some .header) else some .format

/-- What holds of the machine between steps. -/
structure State.Inv (s : State) : Prop where
  /-- Reserved bits read 0 (R24). -/
  reserved : ∀ r : Reg, s.stored r &&& ~~~ r.fields = 0
  /-- `eng` is RUN exactly when STATUS.BUSY = 1 (R49). -/
  busyRun : s.busy = true ↔ s.eng = .run
  /-- `irq = STATUS.DONE and CTRL.IE` (R190). -/
  irqLevel : s.irq = (s.done && s.ie)
  /-- ERR codes 5 to 15 are never produced (R180). -/
  errLegal : s.err.toNat ≤ 4
  /-- While a command runs, DONE and ERR are as acceptance left them (R170). -/
  busyClean : s.busy = true → s.done = false ∧ s.err = 0
  /-- An unanswered access belongs to a running command (R72). -/
  waitingRun : s.waiting ≠ none → s.eng = .run
  /-- A command that is accepted and has not moved has made no access yet. -/
  runFresh : s.eng = .run → s.waiting = none → s.trace = []
  /-- Displaced bytes are kept only while a command runs (R77). -/
  racesRun : s.races ≠ [] → s.eng = .run
  /-- System memory is in its canonical form. -/
  memCanonical : Memory.wf s.mem = true

/-- The outcome is a next state. -/
def isNext (o : Host.Outcome State Fault Refusal) : Bool :=
  match o with
  | .next _ => true
  | .fault _ => false
  | .refused _ => false

/-- A turn the spec gives a meaning to (R22): a host access to the window is an aligned 32-bit access within it. -/
def Turn.proper (base : Nat) (t : Turn) : Bool :=
  match t with
  | .busWrite addr size _ => decide (base ≤ addr) && decide (addr < base + Config.mmioSize) && size == 4 &&
      addr % 4 == 0 && (addr - base) % 4 == 0
  | .busRead addr size => decide (base ≤ addr) && decide (addr < base + Config.mmioSize) && size == 4 &&
      addr % 4 == 0 && (addr - base) % 4 == 0
  | .busPoll addr => decide (base ≤ addr) && decide (addr < base + Config.mmioSize) && addr % 4 == 0 &&
      (addr - base) % 4 == 0
  | .engine | .memWrite _ _ | .memRead _ | .reset _ => true

/-- A safe run of k steps: no step faults or is refused. -/
def SafeRun (k : Nat) (s : State) : Prop := isNext (Sys2Proof.core.run k s) = true

end Sys2Proof.Machine
end

