-- ==== Sys2Proof/Certificates/Slice0/Obligations.lean ====
section
/-! DEFINITION. The statements about the PFC, for the provers. Each says which rule of spec/ it formalises.
Where one says what bytes memory holds, it is of plain memory: that a read or a write of the port has no side effect on
other bytes, which 20_memory.md R71 does not rule out on a platform, is the model's choice (log 19). -/

open Sys2Proof Sys2Proof.Machine

/-! ### Encoding -/

/-- 30_encoding.md R93, R94, R96: the word of a command is read back as that command, with every operand at every value
CH and IDX admit. -/
def Obligations.DecodeInvertsEncode : Prop :=
  ∀ i : Instr, i.wellFormed = true → decode (encode i) = .ok i

/-- 30_encoding.md R91 to R94: a word the decoder accepts is the word of the command it gives, so no bit of a word is
ignored and no command has two words. -/
def Obligations.EncodeInvertsDecode : Prop :=
  ∀ (w : Word) (i : Instr), decode w = .ok i → encode i = w

/-- 30_encoding.md R93: "A word w is the command of a row exactly when `w & mask = match`. At most one row matches any
word." The decoder, which works by fields, accepts exactly the words some row of the table matches, and gives the
command of that row. -/
def Obligations.DecoderAgreesWithTable : Prop :=
  (∀ w : Word, (∃ i, decode w = .ok i) ↔ legalCmd w = true) ∧
  (∀ (w : Word) (i : Instr), decode w = .ok i →
    ∀ r ∈ opcodeRows, r.accepts w = true → r.pattern = BitVec.ofNat 32 i.opcode) ∧
  (∀ w : Word, ∀ r ∈ opcodeRows, ∀ q ∈ opcodeRows, r.accepts w = true → q.accepts w = true → r = q)

/-- 30_encoding.md R94: which words are illegal, by field, and that an accepted illegal word completes with
ERR = ILLEGAL and no other effect. -/
def Obligations.IllegalWords : Prop :=
  (∀ w : Word, legalCmd w = false ↔
    (16 ≤ w.toNat % 256 ∨ w.toNat / 2 ^ 18 ≠ 0 ∨
      (w.toNat / 256 % 4 ≠ 0 ∧ w.toNat % 256 ∉ [0x04, 0x05, 0x0C, 0x0D]) ∨
      (w.toNat / 1024 % 256 ≠ 0 ∧ w.toNat % 256 ∉ [0x0C, 0x0D]))) ∧
  (∀ s : State, s.agenda = [] → s.eng = .run → s.waiting = none → legalCmd s.curCmd = false →
    ∃ t, step s = .next t ∧ Errored .illegal s t)

/-- Words written out from 30_encoding.md R93 and R96 (95_test_vectors.md V7) decode to the commands they stand for. -/
def Obligations.SampleWordsDecode : Prop :=
  decode 0x00000000#32 = .ok .nop ∧ decode 0x00000002#32 = .ok .decode ∧
  decode 0x00000104#32 = .ok (.extract .green) ∧ decode 0x00000205#32 = .ok (.pack .blue) ∧
  decode 0x0003FF0C#32 = .ok (.lutwr .alpha 255) ∧ decode 0x0000810D#32 = .ok (.lutrd .green 32) ∧
  decode 0x0000000F#32 = .ok .fromdev ∧ decode 0x00000010#32 = .error .reservedOp ∧
  decode 0x00040000#32 = .error .reservedBits ∧ decode 0x00000102#32 = .error .unusedChannel ∧
  decode 0x00000404#32 = .error .unusedIndex

/-- 45_control.md R173: while a command runs and no access of it is left unanswered, a step in which the engine moves is
`exec` of the decoded command: at the state itself when the agenda is empty, and at the state without that turn when the
engine's turn is the oldest on it. That one engine turn runs the whole command, and the agenda, are the model's choices
(log 6, log 13). -/
def Obligations.StepRunsDecodedCommand : Prop :=
  ∀ (s : State) (i : Instr), s.eng = .run → s.waiting = none → decode s.curCmd = .ok i →
    (s.agenda = [] → step s = exec i s) ∧
    (∀ rest, s.agenda = .engine :: rest → step s = exec i { s with agenda := rest })

/-! ### The register window and the lifecycle -/

/-- 45_control.md R170: a host write of v to CMD while BUSY = 0 accepts v, in one step; then the engine executes it. The
last clause rests on the model's choices that one engine turn runs the whole command and that the engine moves when
nothing is on the agenda (log 6, log 13), where R173 leaves the number of steps open; that the records of byte events
and of racing stores start empty is the model's too (log 8, log 9), and so is the field `waiting` (log 7). -/
def Obligations.WriteToCmdAccepts : Prop :=
  ∀ (s : State) (v : Word) (rest : List Turn), s.agenda = .busWrite s.mmioBase 4 v :: rest →
    s.mmioBase % 4 = 0 → s.busy = false →
    ∃ t, step s = .next t ∧ t.curCmd = v ∧ t.eng = .run ∧ t.busy = true ∧ t.done = false ∧ t.err = 0 ∧
      t.ovr = s.ovr ∧ t.irq = false ∧
      t = { s with
            agenda := rest, curCmd := v, eng := .run, status := t.status, irq := false, waiting := none, trace := [],
            races := [] } ∧
      (∀ i, rest = [] → decode v = .ok i → step t = exec i t)

/-- 45_control.md R171: what a host write does while BUSY = 1; a write to RES or to an unmapped offset is ignored
whatever BUSY is. -/
def Obligations.WritesWhileBusy : Prop :=
  (∀ (s : State) (r : Reg) (v : Word) (rest : List Turn), s.agenda = .busWrite (s.mmioBase + r.offset) 4 v :: rest →
    s.mmioBase % 4 = 0 → s.busy = true →
    ∃ t, step s = .next t ∧
      (r ≠ .status → r ≠ .ctrl → r ≠ .res →
        t = { s with agenda := rest, status := t.status } ∧ t.ovr = true ∧ t.busy = true ∧ t.done = s.done ∧
          t.err = s.err) ∧
      (r = .status →
        t = { s with agenda := rest, status := t.status, irq := t.irq } ∧ t.done = (s.done && !v.getLsbD 1) ∧
          t.ovr = (s.ovr && !v.getLsbD 2) ∧ t.busy = true ∧ t.err = s.err) ∧
      (r = .ctrl → t = { s with agenda := rest, ctrl := t.ctrl, irq := t.irq } ∧ t.ie = v.getLsbD 0)) ∧
  (∀ (s : State) (k : Nat) (v : Word) (rest : List Turn), s.agenda = .busWrite (s.mmioBase + k) 4 v :: rest →
    s.mmioBase % 4 = 0 → k = Reg.offset .res ∨ 0x58 ≤ k → k < 256 → k % 4 = 0 →
    step s = .next { s with agenda := rest })

/-- 10_state.md R46 and R24: while BUSY = 0 a configuration or data register stores what the host writes, less its
reserved bits; a host read then returns it; and every other register is as it was. -/
def Obligations.WriteThenReadBack : Prop :=
  ∀ (s : State) (r : Reg) (v : Word), s.busy = false → s.mmioBase % 4 = 0 → r ≠ .cmd → r ≠ .status → r ≠ .ctrl →
    r ≠ .res →
    ∃ t u, hostWrite (s.mmioBase + r.offset) 4 v s = .next t ∧ hostRead (t.mmioBase + r.offset) 4 t = .next u ∧
      u.rdata = v &&& r.fields ∧ (∀ q : Reg, q ≠ r → u.stored q = s.stored q) ∧
      u.lut = s.lut ∧ u.mem = s.mem ∧ u.eng = s.eng ∧ u.irq = s.irq ∧ u.trace = s.trace ∧ u.fresh = s.fresh

/-- 10_state.md R26: a host write of v to STATUS clears DONE and OVR where v has a 1, whatever BUSY is, and changes no
other bit; `irq` follows DONE (60_exceptions.md R190). -/
def Obligations.StatusWriteClears : Prop :=
  ∀ (s : State) (v : Word) (rest : List Turn), s.agenda = .busWrite (s.mmioBase + 0x04) 4 v :: rest →
    s.mmioBase % 4 = 0 →
    ∃ t, step s = .next t ∧ t = { s with agenda := rest, status := t.status, irq := t.irq } ∧
      (∀ j, t.status.getLsbD j = (s.status.getLsbD j && !((j == 1 || j == 2) && v.getLsbD j))) ∧
      t.irq = (s.done && !v.getLsbD 1 && s.ie)

/-- 10_state.md R27 and 60_exceptions.md R190: a host write of v to CTRL sets IE to bit 0 of v, whatever BUSY is; its
reserved bits read 0; `irq` is at its level at once. -/
def Obligations.CtrlWriteMasksInterrupt : Prop :=
  ∀ (s : State) (v : Word) (rest : List Turn), s.agenda = .busWrite (s.mmioBase + 0x08) 4 v :: rest →
    s.mmioBase % 4 = 0 →
    ∃ t, step s = .next t ∧ t = { s with agenda := rest, ctrl := t.ctrl, irq := t.irq } ∧
      (∀ j, t.ctrl.getLsbD j = (j == 0 && v.getLsbD 0)) ∧ t.irq = (s.done && v.getLsbD 0)

/-- 10_state.md R23: a read of an unmapped offset returns 0; a write there has no effect on any state. -/
def Obligations.UnmappedOffsets : Prop :=
  ∀ (s : State) (k : Nat) (rest : List Turn), s.mmioBase % 4 = 0 → 0x58 ≤ k → k < 256 → k % 4 = 0 →
    (s.agenda = .busRead (s.mmioBase + k) 4 :: rest → step s = .next { s with agenda := rest, rdata := 0 }) ∧
    (∀ v, s.agenda = .busWrite (s.mmioBase + k) 4 v :: rest → step s = .next { s with agenda := rest })

/-- 10_state.md R22 (and row U1 of 93_implementation_defined.md): a host access to the window of a size other than
4 bytes, or not aligned to 4 bytes, is refused. -/
def Obligations.OddAccessesRefused : Prop :=
  ∀ (s : State) (addr size : Nat) (v : Word) (rest : List Turn), s.mmioBase ≤ addr → addr < s.mmioBase + 256 →
    size ≠ 4 ∨ addr % 4 ≠ 0 →
    (s.agenda = .busWrite addr size v :: rest → step s = .refused .hostAccessShape) ∧
    (s.agenda = .busRead addr size :: rest → step s = .refused .hostAccessShape)

/-- 10_state.md R47: a host read returns the register's stored value; while BUSY = 1 this holds of every register but
PIX, DWORD and RES, whose read returns a free value, any 32-bit value, and changes nothing else but the model's count of
free values. A read of CMD returns 0 (R25). The invariant is a premise because R24 says reserved bits read 0. -/
def Obligations.RegisterReads : Prop :=
  ∀ (s : State) (r : Reg) (rest : List Turn), s.Inv → s.agenda = .busRead (s.mmioBase + r.offset) 4 :: rest →
    s.mmioBase % 4 = 0 →
    ∃ t, step s = .next t ∧ t = { s with agenda := rest, rdata := t.rdata, fresh := t.fresh } ∧
      (s.busy = false ∨ (r ≠ .pix ∧ r ≠ .dword ∧ r ≠ .res) → t.rdata = s.stored r ∧ t.fresh = s.fresh) ∧
      (s.busy = true → r = .pix ∨ r = .dword ∨ r = .res →
        t.rdata = Config.freeWord s.fresh ∧ t.fresh = s.fresh + 1) ∧
      (r = .cmd → t.rdata = 0)

/-- 70_reset_and_hazards.md R206: of two back-to-back CMD writes the second is dropped while the first command is still
running, with no effect but OVR. -/
def Obligations.BackToBackCommandDropped : Prop :=
  ∀ (s : State) (v w : Word) (rest : List Turn), s.busy = false → s.mmioBase % 4 = 0 →
    s.agenda = .busWrite s.mmioBase 4 v :: .busWrite s.mmioBase 4 w :: rest →
    ∃ t u, step s = .next t ∧ step t = .next u ∧ u.curCmd = v ∧ u.eng = .run ∧ u.busy = true ∧ u.ovr = true ∧
      u = { t with agenda := rest, status := u.status } ∧ u.done = t.done ∧ u.err = t.err

/-- 60_exceptions.md R190: `irq` after each event that raises or clears it: completion (raised when IE = 1, whether the
command succeeded or not), acceptance of a command (cleared), writing 1 to DONE (cleared), writing IE = 0 (cleared),
reset (cleared). -/
def Obligations.InterruptOutput : Prop :=
  (∀ (i : Instr) (s t : State), exec i s = .next t → t.waiting = none → s.waiting = none → t.irq = s.ie) ∧
  (∀ (s : State) (v : Word), (s.accept v).irq = false) ∧
  (∀ (s : State) (v : Word), v.getLsbD 1 = true → (s.writeReg .status v).irq = false) ∧
  (∀ (s : State) (v : Word), v.getLsbD 0 = false → (s.writeReg .ctrl v).irq = false) ∧
  (∀ s : State, s.hardReset.irq = false)

/-! ### Errors -/

/-- 60_exceptions.md R186 (with R181 to R184, R187): the checks of a running command, in the order ILLEGAL, FORMAT,
HEADER, KIND; the first that fails is reported and nothing but STATUS (and so `eng` and `irq`) changes. -/
def Obligations.ErrorPriority : Prop :=
  ∀ s : State, s.agenda = [] → s.eng = .run → s.waiting = none →
    (legalCmd s.curCmd = false → ∃ t, step s = .next t ∧ Errored .illegal s t) ∧
    (∀ i, decode s.curCmd = .ok i →
      i ∉ [Instr.nop, .decode, .encode] → (∀ c k, i ≠ .lutwr c k ∧ i ≠ .lutrd c k) →
      ¬ (s.bpp ∈ [1, 2, 3, 4] ∧ s.vis ∈ [2, 3, 4, 5] ∧ ∀ c, s.wid c ≤ 8) →
      ∃ t, step s = .next t ∧ Errored .format s t) ∧
    (∀ i, decode s.curCmd = .ok i →
      i = .decode ∨ (i = .todev ∧ s.bpp ∈ [1, 2, 3, 4] ∧ s.vis ∈ [2, 3, 4, 5] ∧ ∀ c, s.wid c ≤ 8) →
      s.maxv = 0 → ∃ t, step s = .next t ∧ Errored .header s t) ∧
    (decode s.curCmd = .ok .ramp → s.bpp ∈ [1, 2, 3, 4] → s.vis ∈ [3, 5] → (∀ c, s.wid c ≤ 8) →
      ∃ t, step s = .next t ∧ Errored .kind s t)

/-- 45_control.md R172 and 60_exceptions.md R185: every command, from every state, ends in a next state: with the first
error its checks give, or completed, or left with an unanswered access and STATUS as it was (20_memory.md R72). -/
def Obligations.EveryCommandEnds : Prop :=
  ∀ (i : Instr) (s : State), s.waiting = none →
    ∃ t, exec i s = .next t ∧
      ((∃ e, firstError i s = some e ∧ Errored e s t) ∨
        (firstError i s = none ∧ Completed s t ∧ t.waiting = none) ∨
        (firstError i s = none ∧ (∃ a, t.waiting = some a ∧ s.admits a = false) ∧ t.status = s.status ∧
          t.eng = s.eng ∧ t.irq = s.irq))

/-- 70_reset_and_hazards.md R202: what each command does when it is the first one accepted after reset. That ENCODE
completes at address 0 leans on every byte answering in `State.reset`, the model's choice (log 4), and that each command
ends in one `exec` is log 6. -/
def Obligations.CommandsAfterReset : Prop :=
  (∀ i ∈ [Instr.validate, .extw, .packw, .addr, .rdpix, .wrpix, .ramp, .todev, .fromdev],
    ∃ t, exec i (State.reset.accept (encode i)) = .next t ∧ t.err = 2 ∧ t.done = true) ∧
  (∀ c, (∃ t, exec (.extract c) (State.reset.accept (encode (.extract c))) = .next t ∧ t.err = 2 ∧ t.done = true) ∧
    (∃ t, exec (.pack c) (State.reset.accept (encode (.pack c))) = .next t ∧ t.err = 2 ∧ t.done = true)) ∧
  (∃ t, exec .decode (State.reset.accept (encode .decode)) = .next t ∧ t.err = 1 ∧ t.done = true) ∧
  (∃ t, exec .nop (State.reset.accept (encode .nop)) = .next t ∧ t.err = 0 ∧ t.done = true) ∧
  (∃ t, exec .encode (State.reset.accept (encode .encode)) = .next t ∧ t.err = 0 ∧ t.done = true ∧
    t.trace = [.write 2 0, .write 1 0, .write 0 0] ∧ t.bytesAt 0 3 = [0, 0, 0]) ∧
  (∀ c k,
    (∃ t, exec (.lutwr c k) (State.reset.accept (encode (.lutwr c k))) = .next t ∧ t.err = 0 ∧ t.done = true) ∧
    (∃ t, exec (.lutrd c k) (State.reset.accept (encode (.lutrd c k))) = .next t ∧ t.err = 0 ∧ t.done = true ∧
      t.res = (Config.lutInit c.code.toNat k.toNat).setWidth 32))

/-! ### Control commands -/

/-- 45_control.md R174: NOP does nothing but the lifecycle; acceptance clears ERR, so it completes with ERR = 0 and
DONE = 1 whatever ERR was. -/
def Obligations.NopRule : Prop :=
  encode .nop = 0x00000000#32 ∧
  (∀ s : State, ∃ t, exec .nop s = .next t ∧ Completed s t ∧
    t = { s with status := t.status, eng := t.eng, irq := t.irq, races := [] }) ∧
  (∀ s : State, ∃ t, exec .nop (s.accept (encode .nop)) = .next t ∧ t.err = 0 ∧ t.done = true)

/-- 45_control.md R175: VALIDATE raises FORMAT unless the format passes R181, and changes STATUS only. -/
def Obligations.ValidateRule : Prop :=
  encode .validate = 0x00000001#32 ∧
  ∀ s : State, ∃ t, exec .validate s = .next t ∧
    ((s.bpp ∈ [1, 2, 3, 4] ∧ s.vis ∈ [2, 3, 4, 5] ∧ ∀ c, s.wid c ≤ 8) →
      Completed s t ∧ t = { s with status := t.status, eng := t.eng, irq := t.irq, races := [] }) ∧
    (¬ (s.bpp ∈ [1, 2, 3, 4] ∧ s.vis ∈ [2, 3, 4, 5] ∧ ∀ c, s.wid c ≤ 8) → Errored .format s t)

/-! ### Sample codec -/

/-- 41_sample_codec.md R122 (with R120, R121): DECODE. Each channel of PIX is the scaled sample mod 256, alpha is 0; the
triplet's bytes are read in increasing address order and nothing is written; HEADER when MAXVAL = 0. -/
def Obligations.DecodeRule : Prop :=
  encode .decode = 0x00000002#32 ∧
  (∀ s : State, s.maxv = 0 → ∃ t, exec .decode s = .next t ∧ Errored .header s t) ∧
  (∀ s : State, s.maxv ≠ 0 → s.quiet → s.admitsSpan s.maddr (if s.maxv ≤ 255 then 3 else 6) →
    ∃ t, exec .decode s = .next t ∧ Completed s t ∧
      t = { s with pix := t.pix, trace := t.trace, status := t.status, eng := t.eng, irq := t.irq, races := [] } ∧
      t.trace = (s.readEvents s.maddr (if s.maxv ≤ 255 then 3 else 6)).reverse ++ s.trace ∧
      (∀ c k, (c, k) ∈ [(Channel.red, 0), (.green, 1), (.blue, 2)] →
        (chan t.pix c).toNat =
          (if s.maxv = 255 then s.sampleAt s.maddr s.maxv k
            else if s.maxv = 65535 then s.sampleAt s.maddr s.maxv k / 256
            else s.sampleAt s.maddr s.maxv k * 255 / s.maxv) % 256) ∧
      chan t.pix .alpha = 0)

/-- 41_sample_codec.md R123: ENCODE writes red, green, blue of PIX at MADDR, MADDR + 1, MADDR + 2, in that order, and
nothing else. -/
def Obligations.EncodeRule : Prop :=
  encode .encode = 0x00000003#32 ∧
  ∀ s : State, s.quiet → s.admitsSpan s.maddr 3 →
    ∃ t, exec .encode s = .next t ∧ Completed s t ∧
      t = { s with mem := t.mem, trace := t.trace, status := t.status, eng := t.eng, irq := t.irq, races := [] } ∧
      t.byteAt s.maddr = s.pix.extractLsb' 16 8 ∧ t.byteAt (s.maddr + 1) = s.pix.extractLsb' 8 8 ∧
      t.byteAt (s.maddr + 2) = s.pix.extractLsb' 0 8 ∧
      (∀ a, a ≠ s.maddr → a ≠ s.maddr + 1 → a ≠ s.maddr + 2 → t.byteAt a = s.byteAt a) ∧
      t.trace = [.write (s.maddr + 2) (s.pix.extractLsb' 0 8), .write (s.maddr + 1) (s.pix.extractLsb' 8 8),
        .write s.maddr (s.pix.extractLsb' 16 8)] ++ s.trace

/-- 20_memory.md R72 on ENCODE: the first byte the platform does not answer leaves the engine waiting there: the bytes
before it are written, no other byte is, STATUS is as it was, and no error code is recorded. The field that holds the
address is the model's (log 7). -/
def Obligations.EncodeHangsAtUnansweredByte : Prop :=
  ∀ (s : State) (j : Nat), s.quiet → j < 3 → s.admitsSpan s.maddr j → s.admits (plus s.maddr j) = false →
    ∃ t, exec .encode s = .next t ∧ t = { s with mem := t.mem, trace := t.trace, waiting := some (plus s.maddr j) } ∧
      t.trace.length = s.trace.length + j ∧
      (∀ k, k < j → t.byteAt (plus s.maddr k) = (encodeTriplet s.pix).getD k 0) ∧
      (∀ a, (∀ k, k < j → a ≠ plus s.maddr k) → t.byteAt a = s.byteAt a)

/-! ### Bitfield packer -/

/-- 40_pixel_value.md R110 and R111: `make` masks each input to 8 bits and places it; `chan` gives it back. -/
def Obligations.MakeMasksChannels : Prop :=
  ∀ r g b a : Nat,
    (make r g b a).toNat = a % 256 * 2 ^ 24 + r % 256 * 2 ^ 16 + g % 256 * 2 ^ 8 + b % 256 ∧
    (chan (make r g b a) .red).toNat = r % 256 ∧ (chan (make r g b a) .green).toNat = g % 256 ∧
    (chan (make r g b a) .blue).toNat = b % 256 ∧ (chan (make r g b a) .alpha).toNat = a % 256

/-- 42_bitfield_packer.md R139 (with R131): EXTRACT. Bit j of RES is a bit of the whole 32-bit DWORD, left-justified in
8 bits; bits 31:8 are 0. -/
def Obligations.ExtractRule : Prop :=
  ∀ (c : Channel), encode (.extract c) = 0x00000004#32 ||| (c.code.setWidth 32 <<< 8) ∧
  ∀ s : State,
    (s.formatOk = false → ∃ t, exec (.extract c) s = .next t ∧ Errored .format s t) ∧
    (s.formatOk = true →
      ∃ t, exec (.extract c) s = .next t ∧ Completed s t ∧
        t = { s with res := t.res, status := t.status, eng := t.eng, irq := t.irq, races := [] } ∧
        ∀ j, t.res.getLsbD j = fieldBit s.dword (s.off c) (s.wid c) j)

/-- 42_bitfield_packer.md R140 (with R132): PACK. Bit j of RES is a bit of channel c of PIX, its top wid bits placed at
bit off and cut at bit 31. -/
def Obligations.PackRule : Prop :=
  ∀ (c : Channel), encode (.pack c) = 0x00000005#32 ||| (c.code.setWidth 32 <<< 8) ∧
  ∀ s : State,
    (s.formatOk = false → ∃ t, exec (.pack c) s = .next t ∧ Errored .format s t) ∧
    (s.formatOk = true →
      ∃ t, exec (.pack c) s = .next t ∧ Completed s t ∧
        t = { s with res := t.res, status := t.status, eng := t.eng, irq := t.irq, races := [] } ∧
        ∀ j, j < 32 → t.res.getLsbD j = contribBit (chan s.pix c) (s.off c) (s.wid c) j)

/-- 42_bitfield_packer.md R141 (with R135): EXTW. Every channel of PIX, alpha included, is its own field of DWORD, whose
bits at and above 8 * bpp are ignored. -/
def Obligations.ExtwRule : Prop :=
  encode .extw = 0x00000006#32 ∧
  ∀ s : State,
    (s.formatOk = false → ∃ t, exec .extw s = .next t ∧ Errored .format s t) ∧
    (s.formatOk = true →
      ∃ t, exec .extw s = .next t ∧ Completed s t ∧
        t = { s with pix := t.pix, status := t.status, eng := t.eng, irq := t.irq, races := [] } ∧
        ∀ c j, (chan t.pix c).getLsbD j =
          (fieldBit s.dword (s.off c) (s.wid c) j && decide (s.off c + j - (8 - s.wid c) < 8 * s.bpp)))

/-- 42_bitfield_packer.md R142 (with R133): PACKW. Each bit of DWORD is the OR of the four channels' contributions, not
masked to bpp bytes. -/
def Obligations.PackwRule : Prop :=
  encode .packw = 0x00000007#32 ∧
  ∀ s : State,
    (s.formatOk = false → ∃ t, exec .packw s = .next t ∧ Errored .format s t) ∧
    (s.formatOk = true →
      ∃ t, exec .packw s = .next t ∧ Completed s t ∧
        t = { s with dword := t.dword, status := t.status, eng := t.eng, irq := t.irq, races := [] } ∧
        ∀ j, j < 32 → (t.dword.getLsbD j = true ↔
          ∃ c, contribBit (chan s.pix c) (s.off c) (s.wid c) j = true))

/-- 42_bitfield_packer.md R143 (with R136): ADDR. The offset is exact and then reduced mod 2^32; DEV_BASE is not
added. -/
def Obligations.AddrRule : Prop :=
  encode .addr = 0x00000008#32 ∧
  ∀ s : State,
    (s.formatOk = false → ∃ t, exec .addr s = .next t ∧ Errored .format s t) ∧
    (s.formatOk = true →
      ∃ t, exec .addr s = .next t ∧ Completed s t ∧
        t = { s with res := t.res, status := t.status, eng := t.eng, irq := t.irq, races := [] } ∧
        t.res.toNat =
          ((s.xy.toNat / 65536 + s.devOfs.toNat / 65536) * s.devStride.toNat +
            (s.xy.toNat % 65536 + s.devOfs.toNat % 65536) * (s.fmt.toNat % 8)) % 2 ^ 32)

/-- 42_bitfield_packer.md R144 (with R137): RDPIX reads exactly bpp bytes at devAddr(X, Y), in increasing address order,
into DWORD, little-endian, and unpacks that word into PIX. A byte the platform does not answer leaves the engine
stuck there, DWORD and PIX as they were. -/
def Obligations.RdpixRule : Prop :=
  encode .rdpix = 0x00000009#32 ∧
  ∀ s : State,
    (s.formatOk = false → ∃ t, exec .rdpix s = .next t ∧ Errored .format s t) ∧
    (s.formatOk = true → s.quiet → s.admitsSpan (s.devAddr s.xcoord s.ycoord) s.bpp →
      ∃ t, exec .rdpix s = .next t ∧ Completed s t ∧
        t = { s with
              dword := t.dword, pix := t.pix, trace := t.trace, status := t.status, eng := t.eng, irq := t.irq,
              races := [] } ∧
        (∀ k, k < 4 → t.dword.extractLsb' (8 * k) 8 =
          if k < s.bpp then s.byteAt (plus (s.devAddr s.xcoord s.ycoord) k) else 0) ∧
        (∀ c j, (chan t.pix c).getLsbD j = fieldBit t.dword (s.off c) (s.wid c) j) ∧
        t.trace = (s.readEvents (s.devAddr s.xcoord s.ycoord) s.bpp).reverse ++ s.trace) ∧
    (∀ j, s.formatOk = true → s.quiet → j < s.bpp → s.admitsSpan (s.devAddr s.xcoord s.ycoord) j →
      s.admits (plus (s.devAddr s.xcoord s.ycoord) j) = false →
      exec .rdpix s = .next { s with
        trace := (s.readEvents (s.devAddr s.xcoord s.ycoord) j).reverse ++ s.trace,
        waiting := some (plus (s.devAddr s.xcoord s.ycoord) j) })

/-- 42_bitfield_packer.md R145 (with R133, R138): WRPIX packs PIX into DWORD and writes its low bpp bytes at
devAddr(X, Y), lowest first, and no other byte; nothing is read. -/
def Obligations.WrpixRule : Prop :=
  encode .wrpix = 0x0000000A#32 ∧
  ∀ s : State,
    (s.formatOk = false → ∃ t, exec .wrpix s = .next t ∧ Errored .format s t) ∧
    (s.formatOk = true → s.quiet → s.admitsSpan (s.devAddr s.xcoord s.ycoord) s.bpp →
      ∃ t, exec .wrpix s = .next t ∧ Completed s t ∧
        t = { s with
              dword := t.dword, mem := t.mem, trace := t.trace, status := t.status, eng := t.eng, irq := t.irq,
              races := [] } ∧
        (∀ j, j < 32 → (t.dword.getLsbD j = true ↔
          ∃ c, contribBit (chan s.pix c) (s.off c) (s.wid c) j = true)) ∧
        (∀ k, k < s.bpp → t.byteAt (plus (s.devAddr s.xcoord s.ycoord) k) = t.dword.extractLsb' (8 * k) 8) ∧
        (∀ a, (∀ k, k < s.bpp → a ≠ plus (s.devAddr s.xcoord s.ycoord) k) → t.byteAt a = s.byteAt a) ∧
        t.trace = (writeEvents (s.devAddr s.xcoord s.ycoord) (wordBytes s.bpp t.dword)).reverse ++ s.trace)

/-- 42_bitfield_packer.md R136: the address of a device pixel, exact and then reduced mod 2^32. -/
def Obligations.DeviceAddressFormula : Prop :=
  ∀ (s : State) (x y : Nat),
    (s.addressOf x y).toNat = ((y + s.yoff) * s.devStride.toNat + (x + s.xoff) * s.bpp) % 2 ^ 32 ∧
    (s.devAddr x y).toNat =
      (s.devBase.toNat + (y + s.yoff) * s.devStride.toNat + (x + s.xoff) * s.bpp) % 2 ^ 32

/-- 42_bitfield_packer.md R146: the per-channel round trip clears the low 8 - wid bits, so the loss is v mod 2^(8-wid),
below 2^(8-wid). -/
def Obligations.ChannelRoundTrip : Prop :=
  ∀ (v : Byte) (off wid : Nat), wid ≤ 8 → off ≤ 31 → off + wid ≤ 32 →
    (extractChannel (packChannel v off wid) off wid).toNat = v.toNat - v.toNat % 2 ^ (8 - wid) ∧
    v.toNat - (extractChannel (packChannel v off wid) off wid).toNat < 2 ^ (8 - wid)

/-- 42_bitfield_packer.md R147: the word round trip, for fields that lie inside the pixel and do not overlap. -/
def Obligations.WordRoundTrip : Prop :=
  ∀ (s : State) (p : Word), s.formatOk = true → (∀ c, s.off c + s.wid c ≤ 8 * s.bpp) →
    (∀ c d, c ≠ d → s.off c + s.wid c ≤ s.off d ∨ s.off d + s.wid d ≤ s.off c ∨ s.wid c = 0 ∨ s.wid d = 0) →
    ∀ c, (chan (s.unpackWord (s.packWord p)) c).toNat =
      (chan p c).toNat - (chan p c).toNat % 2 ^ (8 - s.wid c)

/-- 42_bitfield_packer.md R148, and the passes that share the packer: two supported visual kinds give the same result.
Replacing FMT by another with the same BPP and a supported VIS changes nothing but FMT. -/
def Obligations.VisualKindIrrelevant : Prop :=
  ∀ (i : Instr) (s : State) (f : Word), i ≠ .ramp → s.formatOk = true → ({ s with fmt := f }).formatOk = true →
    ({ s with fmt := f }).bpp = s.bpp →
    ∀ t, exec i s = .next t → exec i { s with fmt := f } = .next { t with fmt := f }

/-! ### Colormap -/

/-- 43_colormap.md R150: the ramp, its ends, the ramp of width 8, and that a channel of width 0 has no ramp. -/
def Obligations.RampValues : Prop :=
  (∀ L i : Nat, 1 ≤ L → L ≤ 8 → i < 2 ^ L → (rampEntry L i).toNat = i * 65535 / (2 ^ L - 1)) ∧
  (∀ L : Nat, 1 ≤ L → L ≤ 8 → rampEntry L 0 = 0 ∧ (rampEntry L (2 ^ L - 1)).toNat = 65535) ∧
  (∀ i : Nat, i < 256 → (rampEntry 8 i).toNat = 257 * i) ∧
  (∀ (s : State) (c : Channel) (k : BitVec 8), s.wid c = 0 → s.rampLut.lutEntry c k = s.lutEntry c k)

/-- 43_colormap.md R151: RAMP writes the linear ramp of every present channel of a direct kind and no other entry;
FORMAT, then KIND. -/
def Obligations.RampRule : Prop :=
  encode .ramp = 0x0000000B#32 ∧
  ∀ s : State,
    (s.formatOk = false → ∃ t, exec .ramp s = .next t ∧ Errored .format s t) ∧
    (s.formatOk = true → s.vis = 3 ∨ s.vis = 5 → ∃ t, exec .ramp s = .next t ∧ Errored .kind s t) ∧
    (s.formatOk = true → s.vis = 2 ∨ s.vis = 4 →
      ∃ t, exec .ramp s = .next t ∧ Completed s t ∧
        t = { s with lut := t.lut, status := t.status, eng := t.eng, irq := t.irq, races := [] } ∧
        ∀ (c : Channel) (k : BitVec 8), t.lutEntry c k =
          if 1 ≤ s.wid c ∧ k.toNat < 2 ^ s.wid c
          then BitVec.ofNat 16 (k.toNat * 65535 / (2 ^ s.wid c - 1)) else s.lutEntry c k)

/-- 43_colormap.md R152: LUTWR writes one entry from LDATA[15:0] and no other; no check. -/
def Obligations.LutwrRule : Prop :=
  ∀ (c : Channel) (k : BitVec 8),
    encode (.lutwr c k) = 0x0000000C#32 ||| (c.code.setWidth 32 <<< 8) ||| (k.setWidth 32 <<< 10) ∧
    ∀ s : State, ∃ t, exec (.lutwr c k) s = .next t ∧ Completed s t ∧
      t = { s with lut := t.lut, status := t.status, eng := t.eng, irq := t.irq, races := [] } ∧
      (t.lutEntry c k).toNat = s.ldata.toNat % 65536 ∧
      ∀ d j, (d, j) ≠ (c, k) → t.lutEntry d j = s.lutEntry d j

/-- 43_colormap.md R153: LUTRD reads one entry into RES, bits 31:16 being 0; no check. -/
def Obligations.LutrdRule : Prop :=
  ∀ (c : Channel) (k : BitVec 8),
    encode (.lutrd c k) = 0x0000000D#32 ||| (c.code.setWidth 32 <<< 8) ||| (k.setWidth 32 <<< 10) ∧
    ∀ s : State, ∃ t, exec (.lutrd c k) s = .next t ∧ Completed s t ∧
      t = { s with res := t.res, status := t.status, eng := t.eng, irq := t.irq, races := [] } ∧
      t.res.toNat = (s.lutEntry c k).toNat

/-- 43_colormap.md R154: only RAMP and LUTWR write the LUT, and no command but LUTRD and these two depends on it: with
another LUT every other command does the same and leaves that LUT. -/
def Obligations.LutIsolated : Prop :=
  (∀ (i : Instr) (s t : State), i ≠ .ramp → (∀ c k, i ≠ .lutwr c k) → exec i s = .next t → t.lut = s.lut) ∧
  (∀ (i : Instr) (s t : State) (l : Vector (Vector (BitVec 16) 256) 4), i ≠ .ramp →
    (∀ c k, i ≠ .lutwr c k ∧ i ≠ .lutrd c k) → exec i s = .next t →
    exec i { s with lut := l } = .next { t with lut := l })

/-! ### Raster passes -/

/-- 44_raster.md R160: the visiting order has every pixel of the raster once, and is row-major. -/
def Obligations.RasterOrderRowMajor : Prop :=
  ∀ w h : Nat,
    (∀ x y, (x, y) ∈ rasterOrder w h ↔ x < w ∧ y < h) ∧
    (rasterOrder w h).Pairwise (fun p q => before p.1 p.2 q.1 q.2) ∧ (rasterOrder w h).length = w * h

/-- The bytes a pass addresses (70_reset_and_hazards.md R213): the model's regions are exactly the bytes of its pixels.
That they leave out the gaps between the rows, where R213 also calls the device region `rowStride x height` bytes, is
the model's reading (log 14). -/
def Obligations.PassFootprints : Prop :=
  ∀ (s : State) (a : Word),
    (s.inImage a = true ↔
      ∃ x y k, x < s.width ∧ y < s.height ∧ k < 3 * sampleWidth s.maxv ∧ a = plus (s.imgAddr x y) k) ∧
    (s.inDevice a = true ↔ ∃ x y k, x < s.width ∧ y < s.height ∧ k < s.bpp ∧ a = plus (s.devAddr x y) k) ∧
    (s.inOutput a = true ↔ ∃ x y k, x < s.width ∧ y < s.height ∧ k < 3 ∧ a = plus (s.outAddr x y) k)

/-- 44_raster.md R163 (with R160, R161, R165 and 20_memory.md R75): TODEV. Its errors; and, when no byte that its pixels
read is a byte that they write, no host store races and every access is answered: it completes, its byte events are
those of its pixels in row-major order, PIX and DWORD hold the last pixel's values, and nothing outside the device bytes
changes. That image bytes in the gaps between the device rows are no overlap (20_memory.md R61, R81) is the model's
reading (log 14). -/
def Obligations.TodevRule : Prop :=
  encode .todev = 0x0000000E#32 ∧
  ∀ s : State,
    (s.formatOk = false → ∃ t, exec .todev s = .next t ∧ Errored .format s t) ∧
    (s.formatOk = true → s.maxv = 0 → ∃ t, exec .todev s = .next t ∧ Errored .header s t) ∧
    (s.formatOk = true → s.maxv ≠ 0 → s.quiet → (∀ a, s.inImage a = true → s.inDevice a = false) →
      (∀ a, s.inImage a = true ∨ s.inDevice a = true → s.admits a = true) →
      ∃ t, exec .todev s = .next t ∧ Completed s t ∧
        t = { s with
              pix := t.pix, dword := t.dword, mem := t.mem, trace := t.trace, curX := t.curX, curY := t.curY,
              status := t.status, eng := t.eng, irq := t.irq, races := [] } ∧
        t.trace = ((rasterOrder s.width s.height).flatMap s.todevEvents).reverse ++ s.trace ∧
        (0 < s.width → 0 < s.height →
          t.pix = s.imagePixel (s.width - 1) (s.height - 1) ∧ t.dword = s.packWord t.pix) ∧
        (s.width = 0 ∨ s.height = 0 → t.pix = s.pix ∧ t.dword = s.dword ∧ t.mem = s.mem) ∧
        (∀ a, s.inDevice a = false → t.byteAt a = s.byteAt a))

/-- 44_raster.md R163 and 20_memory.md R81: what TODEV leaves in the device buffer. Byte k of the device pixel of
(x, y), unless a later pixel of the pass writes that byte too, is byte k of the packed pixel value of the image triplet
of (x, y) as the image was before the pass. The premise counts as overlap only bytes that pixels touch, the model's
reading (log 14). -/
def Obligations.TodevWritesEveryPixel : Prop :=
  ∀ s : State, s.formatOk = true → s.maxv ≠ 0 → s.quiet → (∀ a, s.inImage a = true → s.inDevice a = false) →
    (∀ a, s.inImage a = true ∨ s.inDevice a = true → s.admits a = true) →
    ∃ t, exec .todev s = .next t ∧
      ∀ x y k, x < s.width → y < s.height → k < s.bpp →
        (∀ x' y' k', x' < s.width → y' < s.height → k' < s.bpp → before x y x' y' →
          plus (s.devAddr x' y') k' ≠ plus (s.devAddr x y) k) →
        t.byteAt (plus (s.devAddr x y) k) = (s.packWord (s.imagePixel x y)).extractLsb' (8 * k) 8

/-- 44_raster.md R164 (with R160, R162, R165 and 20_memory.md R75): FROMDEV. Its error; and, when no byte that its
pixels read is a byte that they write, no host store races and every access is answered: it completes whatever MAXVAL
is, its byte events are those of its pixels in row-major order, PIX and DWORD hold the last pixel's values, and nothing
outside the output bytes changes. That output bytes in the gaps between the device rows are no overlap (20_memory.md
R61, R81) is the model's reading (log 14). -/
def Obligations.FromdevRule : Prop :=
  encode .fromdev = 0x0000000F#32 ∧
  ∀ s : State,
    (s.formatOk = false → ∃ t, exec .fromdev s = .next t ∧ Errored .format s t) ∧
    (s.formatOk = true → s.quiet → (∀ a, s.inDevice a = true → s.inOutput a = false) →
      (∀ a, s.inDevice a = true ∨ s.inOutput a = true → s.admits a = true) →
      ∃ t, exec .fromdev s = .next t ∧ Completed s t ∧
        t = { s with
              pix := t.pix, dword := t.dword, mem := t.mem, trace := t.trace, curX := t.curX, curY := t.curY,
              status := t.status, eng := t.eng, irq := t.irq, races := [] } ∧
        t.trace = ((rasterOrder s.width s.height).flatMap s.fromdevEvents).reverse ++ s.trace ∧
        (0 < s.width → 0 < s.height →
          t.dword = s.deviceWord (s.width - 1) (s.height - 1) ∧ t.pix = s.unpackWord t.dword) ∧
        (s.width = 0 ∨ s.height = 0 → t.pix = s.pix ∧ t.dword = s.dword ∧ t.mem = s.mem) ∧
        (∀ a, s.inOutput a = false → t.byteAt a = s.byteAt a))

/-- 44_raster.md R164, R162: what FROMDEV leaves in the output. For a raster of at most 2^32 / 3 pixels, bytes 0, 1, 2
of the triplet of (x, y) are red, green, blue of the unpacked device word of (x, y) as the device was before the
pass. The premise counts as overlap only bytes that pixels touch, the model's reading (log 14). -/
def Obligations.FromdevWritesEveryTriplet : Prop :=
  ∀ s : State, s.formatOk = true → s.quiet → (∀ a, s.inDevice a = true → s.inOutput a = false) →
    (∀ a, s.inDevice a = true ∨ s.inOutput a = true → s.admits a = true) → 3 * s.width * s.height ≤ 2 ^ 32 →
    ∃ t, exec .fromdev s = .next t ∧
      ∀ x y, x < s.width → y < s.height →
        t.bytesAt (s.outAddr x y) 3 =
          [chan (s.unpackWord (s.deviceWord x y)) .red, chan (s.unpackWord (s.deviceWord x y)) .green,
            chan (s.unpackWord (s.deviceWord x y)) .blue]

/-! ### Whole-machine rules -/

/-- 10_state.md R45 and 20_memory.md R60, R69: which commands may write each register, the LUT and memory, and which
make no memory access; no command writes a configuration register, XY, MADDR, LDATA or CTRL. -/
def Obligations.WhoWritesWhat : Prop :=
  ∀ (i : Instr) (s t : State), exec i s = .next t →
    (i ∉ [Instr.decode, .extw, .rdpix, .todev, .fromdev] → t.pix = s.pix) ∧
    (i ∉ [Instr.packw, .rdpix, .wrpix, .todev, .fromdev] → t.dword = s.dword) ∧
    ((∀ c k, i ≠ .extract c ∧ i ≠ .pack c ∧ i ≠ .lutrd c k) → i ≠ .addr → t.res = s.res) ∧
    ((∀ c k, i ≠ .lutwr c k) → i ≠ .ramp → t.lut = s.lut) ∧
    (i ∉ [Instr.encode, .wrpix, .todev, .fromdev] → t.mem = s.mem) ∧
    (i ∉ [Instr.decode, .encode, .rdpix, .wrpix, .todev, .fromdev] → t.trace = s.trace ∧ t.waiting = s.waiting) ∧
    t.ctrl = s.ctrl ∧ t.fmt = s.fmt ∧ t.descR = s.descR ∧ t.descG = s.descG ∧ t.descB = s.descB ∧
    t.descA = s.descA ∧ t.maxval = s.maxval ∧ t.dim = s.dim ∧ t.devBase = s.devBase ∧
    t.devStride = s.devStride ∧ t.devOfs = s.devOfs ∧ t.imgBase = s.imgBase ∧ t.imgStride = s.imgStride ∧
    t.outBase = s.outBase ∧ t.xy = s.xy ∧ t.maddr = s.maddr ∧ t.ldata = s.ldata

/-- 00_scope.md R10 and 20_memory.md R71: a command changes memory by its byte events and by nothing else: memory after
it is memory before it with the writes among its new events done in their order. It holds of a command that hangs
too. That the event of a racing or overlapping write carries the byte left is the model's choice (log 17), and that memory has
no side effects of its own (20_memory.md R71) is too (log 19). -/
def Obligations.MemoryIsReplayOfEvents : Prop :=
  ∀ (i : Instr) (s t : State), exec i s = .next t →
    ∃ evs, t.trace = evs.reverse ++ s.trace ∧ t.mem = replay evs s.mem

/-- 20_memory.md R69, R71, and the model's footprints: a command writes no byte outside the bytes its rule lists, even
when it hangs, races or overlaps. That memory has no side effects of its own (R71) is the model's choice (log 19). -/
def Obligations.WritesStayInFootprint : Prop :=
  ∀ (i : Instr) (s t : State) (a : Word), exec i s = .next t → s.commandWrites i a = false → t.byteAt a = s.byteAt a

/-- 20_memory.md R77: what the engine and the host leave where they meet. In any command, a pass included, at a byte
outside the overlap of its source and destination: a read by the engine returns what memory holds or a value that a host
store displaced, and a write leaves either writer's value, the engine's own when no host store came to that byte. A host
store while BUSY = 0 stores exactly that byte; while BUSY = 1 it leaves its value, or, where the running command has
already written the byte, either writer's value; no other byte changes, and the value it displaced is one the engine may
still read. How a race is recorded is the model's (log 8, log 9); that no access changes another byte is log 19. -/
def Obligations.RacesGiveAWritersValue : Prop :=
  (∀ (s : State) (free : Overlap) (a : Word) (v : Byte), s.admits a = true → free a = false →
    (∃ b t, portRead free a s = .ok b t ∧ b ∈ s.byteAt a :: s.displaced a ∧ t.mem = s.mem ∧
      (s.displaced a = [] → b = s.byteAt a)) ∧
    (∃ t, portWrite free a v s = .ok () t ∧ (t.byteAt a = v ∨ t.byteAt a = s.byteAt a) ∧
      (s.displaced a = [] → t.byteAt a = v) ∧ ∀ b, b ≠ a → t.byteAt b = s.byteAt b)) ∧
  (∀ (s : State) (a : Word) (v : Byte) (rest : List Turn), s.agenda = .memWrite a v :: rest →
    ∃ t, step s = .next t ∧
      t = { s with agenda := rest, mem := t.mem, races := t.races, fresh := t.fresh } ∧
      (∀ b, b ≠ a → t.byteAt b = s.byteAt b ∧ t.displaced b = s.displaced b) ∧
      (s.busy = false → t.byteAt a = v ∧ t.races = s.races ∧ t.fresh = s.fresh) ∧
      (s.busy = true → (∀ w, MemEvent.write a w ∉ s.trace) → t.byteAt a = v ∧ t.fresh = s.fresh) ∧
      (s.busy = true → (∃ w, MemEvent.write a w ∈ s.trace) → t.byteAt a = v ∨ t.byteAt a = s.byteAt a) ∧
      (s.busy = true → t.displaced a = s.byteAt a :: s.displaced a))

/-- 20_memory.md R81: a byte in the overlap of a pass's source and destination is any value: the engine reads the
model's next free byte there, and leaves the model's next free byte there. Which bytes overlap is log 14. -/
def Obligations.OverlapBytesAreFree : Prop :=
  ∀ (s : State) (a : Word) (v : Byte), s.admits a = true →
    (s.inImage a = true → s.inDevice a = true →
      (∃ t, portRead s.todevOverlap a s = .ok (Config.freeByte s.fresh) t ∧ t.fresh = s.fresh + 1 ∧ t.mem = s.mem) ∧
      (∃ t, portWrite s.todevOverlap a v s = .ok () t ∧ t.fresh = s.fresh + 1 ∧
        t.byteAt a = Config.freeByte s.fresh ∧ ∀ b, b ≠ a → t.byteAt b = s.byteAt b)) ∧
    (s.inDevice a = true → s.inOutput a = true →
      (∃ t, portRead s.fromdevOverlap a s = .ok (Config.freeByte s.fresh) t ∧ t.fresh = s.fresh + 1 ∧ t.mem = s.mem) ∧
      (∃ t, portWrite s.fromdevOverlap a v s = .ok () t ∧ t.fresh = s.fresh + 1 ∧
        t.byteAt a = Config.freeByte s.fresh ∧ ∀ b, b ≠ a → t.byteAt b = s.byteAt b))

/-- 20_memory.md R76 and 70_reset_and_hazards.md R207: a host read of system memory returns the byte memory holds when
BUSY = 0, and also while BUSY = 1 when the running command does not write that byte, as an illegal word never does;
while BUSY = 1 a byte that the running command writes reads as the model's next free byte, any value. That the other
bytes stay exact is the model's reading (log 10); a free byte is log 11, that a read has no side
effect log 19. -/
def Obligations.HostMemoryReads : Prop :=
  ∀ (s : State) (a : Word) (rest : List Turn), s.agenda = .memRead a :: rest →
    ∃ t, step s = .next t ∧ t = { s with agenda := rest, rdata := t.rdata, fresh := t.fresh } ∧
      (s.busy = false → t.rdata = (s.byteAt a).setWidth 32 ∧ t.fresh = s.fresh) ∧
      (∀ i, decode s.curCmd = .ok i → s.commandWrites i a = false →
        t.rdata = (s.byteAt a).setWidth 32 ∧ t.fresh = s.fresh) ∧
      (∀ i, s.busy = true → decode s.curCmd = .ok i → s.commandWrites i a = true →
        t.rdata = (Config.freeByte s.fresh).setWidth 32 ∧ t.fresh = s.fresh + 1) ∧
      (∀ e, decode s.curCmd = .error e → t.rdata = (s.byteAt a).setWidth 32 ∧ t.fresh = s.fresh)

/-- 70_reset_and_hazards.md R201: the state after reset. -/
def Obligations.ResetState : Prop :=
  (∀ r : Reg, State.reset.stored r = 0 ∧
    ∃ t, hostRead (State.reset.mmioBase + r.offset) 4 State.reset = .next t ∧ t.rdata = 0) ∧
  (∀ k, 0x58 ≤ k → k < 256 → k % 4 = 0 →
    ∃ t, hostRead (State.reset.mmioBase + k) 4 State.reset = .next t ∧ t.rdata = 0) ∧
  (∀ (c : Channel) (k : BitVec 8), State.reset.lutEntry c k = Config.lutInit c.code.toNat k.toNat) ∧
  State.reset.eng = .idle ∧ State.reset.irq = false ∧ State.reset.busy = false ∧ State.reset.done = false ∧
  State.reset.ovr = false ∧ State.reset.err = 0 ∧ State.reset.ie = false ∧ State.reset.formatOk = false ∧
  State.reset.headerOk = false

/-- 70_reset_and_hazards.md R200: the reset event, in any state: every register 0, the LUT at LUT_INIT, the engine IDLE
and no longer stuck, `irq` 0; system memory keeps what the PFC had written, so it is unchanged when no command was
moving. -/
def Obligations.ResetEvent : Prop :=
  ∀ (s : State) (k : Nat) (rest : List Turn), s.agenda = .reset k :: rest →
    ∃ t, step s = .next t ∧ (∀ r : Reg, t.stored r = 0) ∧
      (∀ (c : Channel) (j : BitVec 8), t.lutEntry c j = Config.lutInit c.code.toNat j.toNat) ∧
      t.eng = .idle ∧ t.irq = false ∧ t.waiting = none ∧ t.agenda = rest ∧ t.silent = s.silent ∧
      t.mmioBase = s.mmioBase ∧ (s.eng = .idle ∨ s.waiting ≠ none ∨ k = 0 → t.mem = s.mem)

/-- 70_reset_and_hazards.md R216: a reset that comes after k byte accesses of the running command leaves exactly the
writes among the first k of the command's events; when the command had no more than k, all it would have written. The
count k on a reset turn is the model's (log 15). -/
def Obligations.ResetCutsCommand : Prop :=
  ∀ (s u : State) (i : Instr) (k : Nat) (rest : List Turn), s.agenda = .reset k :: rest → s.eng = .run →
    s.waiting = none → decode s.curCmd = .ok i → exec i { s with agenda := rest } = .next u →
    ∃ (t : State) (evs : List MemEvent), step s = .next t ∧ u.trace = evs.reverse ++ s.trace ∧ t.mem = replay (evs.take k) s.mem ∧
      (evs.length ≤ k → t.mem = u.mem) ∧ t.eng = .idle ∧ t.done = false ∧ t.err = 0

/-- 60_exceptions.md R195 (and 20_memory.md R72): once an access is not answered the engine makes no step, BUSY stays 1
and no code is recorded, whatever the host does; a reset returns the engine to IDLE. The field `waiting` that holds the
unanswered access is the model's (log 7). -/
def Obligations.StuckUntilReset : Prop :=
  ∀ s : State, s.Inv → s.waiting ≠ none →
    (s.agenda = [] → step s = .next s) ∧
    (∀ (x : Turn) (rest : List Turn) (t : State), s.agenda = x :: rest → (∀ k, x ≠ .reset k) → step s = .next t →
      t.waiting = s.waiting ∧ t.eng = .run ∧ t.busy = true ∧ t.done = false ∧ t.err = s.err ∧ t.irq = false) ∧
    (∀ (k : Nat) (rest : List Turn), s.agenda = .reset k :: rest →
      ∃ t, step s = .next t ∧ t.eng = .idle ∧ t.busy = false ∧ t.waiting = none ∧ t.mem = s.mem)

/-- No step faults or is refused, from any state, unless the oldest turn is a host access the spec leaves out: one of
another size or alignment (R22), or outside the register window (log 5). -/
def Obligations.ProperTurnsNeverStop : Prop :=
  ∀ s : State, (∀ x ∈ s.agenda, x.proper s.mmioBase = true) → ∀ k, SafeRun k s

/-- The invariant holds after reset. -/
def Obligations.ResetMeetsInvariant : Prop := State.reset.Inv

/-- Every step keeps the invariant: reserved bits read 0 (R24), `eng` is RUN exactly when BUSY = 1 (R49), `irq` is
DONE and IE (R190), ERR stays a produced code (R180), DONE and ERR are 0 while a command runs (R170), and memory keeps
its canonical form. -/
def Obligations.StepKeepsInvariant : Prop :=
  ∀ s t : State, s.Inv → step s = .next t → t.Inv
end

