-- ==== Sys2Proof/Laws/State.lean ====
section
/-! SUPPORT. One lemma per field per update of State, each true by rfl, so that no later proof unfolds a record
update. -/

namespace Sys2Proof.Machine

/-! ### syncIrq -/

@[simp] theorem syncIrq_status (s : State) : (s.syncIrq).status = s.status := rfl
@[simp] theorem syncIrq_ctrl (s : State) : (s.syncIrq).ctrl = s.ctrl := rfl
@[simp] theorem syncIrq_fmt (s : State) : (s.syncIrq).fmt = s.fmt := rfl
@[simp] theorem syncIrq_descR (s : State) : (s.syncIrq).descR = s.descR := rfl
@[simp] theorem syncIrq_descG (s : State) : (s.syncIrq).descG = s.descG := rfl
@[simp] theorem syncIrq_descB (s : State) : (s.syncIrq).descB = s.descB := rfl
@[simp] theorem syncIrq_descA (s : State) : (s.syncIrq).descA = s.descA := rfl
@[simp] theorem syncIrq_maxval (s : State) : (s.syncIrq).maxval = s.maxval := rfl
@[simp] theorem syncIrq_dim (s : State) : (s.syncIrq).dim = s.dim := rfl
@[simp] theorem syncIrq_devBase (s : State) : (s.syncIrq).devBase = s.devBase := rfl
@[simp] theorem syncIrq_devStride (s : State) : (s.syncIrq).devStride = s.devStride := rfl
@[simp] theorem syncIrq_devOfs (s : State) : (s.syncIrq).devOfs = s.devOfs := rfl
@[simp] theorem syncIrq_imgBase (s : State) : (s.syncIrq).imgBase = s.imgBase := rfl
@[simp] theorem syncIrq_imgStride (s : State) : (s.syncIrq).imgStride = s.imgStride := rfl
@[simp] theorem syncIrq_outBase (s : State) : (s.syncIrq).outBase = s.outBase := rfl
@[simp] theorem syncIrq_pix (s : State) : (s.syncIrq).pix = s.pix := rfl
@[simp] theorem syncIrq_dword (s : State) : (s.syncIrq).dword = s.dword := rfl
@[simp] theorem syncIrq_xy (s : State) : (s.syncIrq).xy = s.xy := rfl
@[simp] theorem syncIrq_maddr (s : State) : (s.syncIrq).maddr = s.maddr := rfl
@[simp] theorem syncIrq_res (s : State) : (s.syncIrq).res = s.res := rfl
@[simp] theorem syncIrq_ldata (s : State) : (s.syncIrq).ldata = s.ldata := rfl
@[simp] theorem syncIrq_lut (s : State) : (s.syncIrq).lut = s.lut := rfl
@[simp] theorem syncIrq_eng (s : State) : (s.syncIrq).eng = s.eng := rfl
@[simp] theorem syncIrq_curCmd (s : State) : (s.syncIrq).curCmd = s.curCmd := rfl
@[simp] theorem syncIrq_curX (s : State) : (s.syncIrq).curX = s.curX := rfl
@[simp] theorem syncIrq_curY (s : State) : (s.syncIrq).curY = s.curY := rfl
@[simp] theorem syncIrq_irq (s : State) : (s.syncIrq).irq = (s.done && s.ie) := rfl
@[simp] theorem syncIrq_mem (s : State) : (s.syncIrq).mem = s.mem := rfl
@[simp] theorem syncIrq_silent (s : State) : (s.syncIrq).silent = s.silent := rfl
@[simp] theorem syncIrq_mmioBase (s : State) : (s.syncIrq).mmioBase = s.mmioBase := rfl
@[simp] theorem syncIrq_agenda (s : State) : (s.syncIrq).agenda = s.agenda := rfl
@[simp] theorem syncIrq_waiting (s : State) : (s.syncIrq).waiting = s.waiting := rfl
@[simp] theorem syncIrq_trace (s : State) : (s.syncIrq).trace = s.trace := rfl
@[simp] theorem syncIrq_races (s : State) : (s.syncIrq).races = s.races := rfl
@[simp] theorem syncIrq_fresh (s : State) : (s.syncIrq).fresh = s.fresh := rfl
@[simp] theorem syncIrq_rdata (s : State) : (s.syncIrq).rdata = s.rdata := rfl

/-! ### accept -/

@[simp] theorem accept_status (v : Word) (s : State) : (s.accept v).status = statusAccept s.status := rfl
@[simp] theorem accept_ctrl (v : Word) (s : State) : (s.accept v).ctrl = s.ctrl := rfl
@[simp] theorem accept_fmt (v : Word) (s : State) : (s.accept v).fmt = s.fmt := rfl
@[simp] theorem accept_descR (v : Word) (s : State) : (s.accept v).descR = s.descR := rfl
@[simp] theorem accept_descG (v : Word) (s : State) : (s.accept v).descG = s.descG := rfl
@[simp] theorem accept_descB (v : Word) (s : State) : (s.accept v).descB = s.descB := rfl
@[simp] theorem accept_descA (v : Word) (s : State) : (s.accept v).descA = s.descA := rfl
@[simp] theorem accept_maxval (v : Word) (s : State) : (s.accept v).maxval = s.maxval := rfl
@[simp] theorem accept_dim (v : Word) (s : State) : (s.accept v).dim = s.dim := rfl
@[simp] theorem accept_devBase (v : Word) (s : State) : (s.accept v).devBase = s.devBase := rfl
@[simp] theorem accept_devStride (v : Word) (s : State) : (s.accept v).devStride = s.devStride := rfl
@[simp] theorem accept_devOfs (v : Word) (s : State) : (s.accept v).devOfs = s.devOfs := rfl
@[simp] theorem accept_imgBase (v : Word) (s : State) : (s.accept v).imgBase = s.imgBase := rfl
@[simp] theorem accept_imgStride (v : Word) (s : State) : (s.accept v).imgStride = s.imgStride := rfl
@[simp] theorem accept_outBase (v : Word) (s : State) : (s.accept v).outBase = s.outBase := rfl
@[simp] theorem accept_pix (v : Word) (s : State) : (s.accept v).pix = s.pix := rfl
@[simp] theorem accept_dword (v : Word) (s : State) : (s.accept v).dword = s.dword := rfl
@[simp] theorem accept_xy (v : Word) (s : State) : (s.accept v).xy = s.xy := rfl
@[simp] theorem accept_maddr (v : Word) (s : State) : (s.accept v).maddr = s.maddr := rfl
@[simp] theorem accept_res (v : Word) (s : State) : (s.accept v).res = s.res := rfl
@[simp] theorem accept_ldata (v : Word) (s : State) : (s.accept v).ldata = s.ldata := rfl
@[simp] theorem accept_lut (v : Word) (s : State) : (s.accept v).lut = s.lut := rfl
@[simp] theorem accept_eng (v : Word) (s : State) : (s.accept v).eng = .run := rfl
@[simp] theorem accept_curCmd (v : Word) (s : State) : (s.accept v).curCmd = v := rfl
@[simp] theorem accept_curX (v : Word) (s : State) : (s.accept v).curX = s.curX := rfl
@[simp] theorem accept_curY (v : Word) (s : State) : (s.accept v).curY = s.curY := rfl
@[simp] theorem accept_mem (v : Word) (s : State) : (s.accept v).mem = s.mem := rfl
@[simp] theorem accept_silent (v : Word) (s : State) : (s.accept v).silent = s.silent := rfl
@[simp] theorem accept_mmioBase (v : Word) (s : State) : (s.accept v).mmioBase = s.mmioBase := rfl
@[simp] theorem accept_agenda (v : Word) (s : State) : (s.accept v).agenda = s.agenda := rfl
@[simp] theorem accept_waiting (v : Word) (s : State) : (s.accept v).waiting = none := rfl
@[simp] theorem accept_trace (v : Word) (s : State) : (s.accept v).trace = [] := rfl
@[simp] theorem accept_races (v : Word) (s : State) : (s.accept v).races = [] := rfl
@[simp] theorem accept_fresh (v : Word) (s : State) : (s.accept v).fresh = s.fresh := rfl
@[simp] theorem accept_rdata (v : Word) (s : State) : (s.accept v).rdata = s.rdata := rfl

/-! ### complete -/

@[simp] theorem complete_status (s : State) : (s.complete).status = statusComplete s.status := rfl
@[simp] theorem complete_ctrl (s : State) : (s.complete).ctrl = s.ctrl := rfl
@[simp] theorem complete_fmt (s : State) : (s.complete).fmt = s.fmt := rfl
@[simp] theorem complete_descR (s : State) : (s.complete).descR = s.descR := rfl
@[simp] theorem complete_descG (s : State) : (s.complete).descG = s.descG := rfl
@[simp] theorem complete_descB (s : State) : (s.complete).descB = s.descB := rfl
@[simp] theorem complete_descA (s : State) : (s.complete).descA = s.descA := rfl
@[simp] theorem complete_maxval (s : State) : (s.complete).maxval = s.maxval := rfl
@[simp] theorem complete_dim (s : State) : (s.complete).dim = s.dim := rfl
@[simp] theorem complete_devBase (s : State) : (s.complete).devBase = s.devBase := rfl
@[simp] theorem complete_devStride (s : State) : (s.complete).devStride = s.devStride := rfl
@[simp] theorem complete_devOfs (s : State) : (s.complete).devOfs = s.devOfs := rfl
@[simp] theorem complete_imgBase (s : State) : (s.complete).imgBase = s.imgBase := rfl
@[simp] theorem complete_imgStride (s : State) : (s.complete).imgStride = s.imgStride := rfl
@[simp] theorem complete_outBase (s : State) : (s.complete).outBase = s.outBase := rfl
@[simp] theorem complete_pix (s : State) : (s.complete).pix = s.pix := rfl
@[simp] theorem complete_dword (s : State) : (s.complete).dword = s.dword := rfl
@[simp] theorem complete_xy (s : State) : (s.complete).xy = s.xy := rfl
@[simp] theorem complete_maddr (s : State) : (s.complete).maddr = s.maddr := rfl
@[simp] theorem complete_res (s : State) : (s.complete).res = s.res := rfl
@[simp] theorem complete_ldata (s : State) : (s.complete).ldata = s.ldata := rfl
@[simp] theorem complete_lut (s : State) : (s.complete).lut = s.lut := rfl
@[simp] theorem complete_eng (s : State) : (s.complete).eng = .idle := rfl
@[simp] theorem complete_curCmd (s : State) : (s.complete).curCmd = s.curCmd := rfl
@[simp] theorem complete_curX (s : State) : (s.complete).curX = s.curX := rfl
@[simp] theorem complete_curY (s : State) : (s.complete).curY = s.curY := rfl
@[simp] theorem complete_mem (s : State) : (s.complete).mem = s.mem := rfl
@[simp] theorem complete_silent (s : State) : (s.complete).silent = s.silent := rfl
@[simp] theorem complete_mmioBase (s : State) : (s.complete).mmioBase = s.mmioBase := rfl
@[simp] theorem complete_agenda (s : State) : (s.complete).agenda = s.agenda := rfl
@[simp] theorem complete_waiting (s : State) : (s.complete).waiting = s.waiting := rfl
@[simp] theorem complete_trace (s : State) : (s.complete).trace = s.trace := rfl
@[simp] theorem complete_races (s : State) : (s.complete).races = [] := rfl
@[simp] theorem complete_fresh (s : State) : (s.complete).fresh = s.fresh := rfl
@[simp] theorem complete_rdata (s : State) : (s.complete).rdata = s.rdata := rfl

/-! ### raise -/

@[simp] theorem raise_status (e : CmdError) (s : State) : (s.raise e).status = statusRaise e s.status := rfl
@[simp] theorem raise_ctrl (e : CmdError) (s : State) : (s.raise e).ctrl = s.ctrl := rfl
@[simp] theorem raise_fmt (e : CmdError) (s : State) : (s.raise e).fmt = s.fmt := rfl
@[simp] theorem raise_descR (e : CmdError) (s : State) : (s.raise e).descR = s.descR := rfl
@[simp] theorem raise_descG (e : CmdError) (s : State) : (s.raise e).descG = s.descG := rfl
@[simp] theorem raise_descB (e : CmdError) (s : State) : (s.raise e).descB = s.descB := rfl
@[simp] theorem raise_descA (e : CmdError) (s : State) : (s.raise e).descA = s.descA := rfl
@[simp] theorem raise_maxval (e : CmdError) (s : State) : (s.raise e).maxval = s.maxval := rfl
@[simp] theorem raise_dim (e : CmdError) (s : State) : (s.raise e).dim = s.dim := rfl
@[simp] theorem raise_devBase (e : CmdError) (s : State) : (s.raise e).devBase = s.devBase := rfl
@[simp] theorem raise_devStride (e : CmdError) (s : State) : (s.raise e).devStride = s.devStride := rfl
@[simp] theorem raise_devOfs (e : CmdError) (s : State) : (s.raise e).devOfs = s.devOfs := rfl
@[simp] theorem raise_imgBase (e : CmdError) (s : State) : (s.raise e).imgBase = s.imgBase := rfl
@[simp] theorem raise_imgStride (e : CmdError) (s : State) : (s.raise e).imgStride = s.imgStride := rfl
@[simp] theorem raise_outBase (e : CmdError) (s : State) : (s.raise e).outBase = s.outBase := rfl
@[simp] theorem raise_pix (e : CmdError) (s : State) : (s.raise e).pix = s.pix := rfl
@[simp] theorem raise_dword (e : CmdError) (s : State) : (s.raise e).dword = s.dword := rfl
@[simp] theorem raise_xy (e : CmdError) (s : State) : (s.raise e).xy = s.xy := rfl
@[simp] theorem raise_maddr (e : CmdError) (s : State) : (s.raise e).maddr = s.maddr := rfl
@[simp] theorem raise_res (e : CmdError) (s : State) : (s.raise e).res = s.res := rfl
@[simp] theorem raise_ldata (e : CmdError) (s : State) : (s.raise e).ldata = s.ldata := rfl
@[simp] theorem raise_lut (e : CmdError) (s : State) : (s.raise e).lut = s.lut := rfl
@[simp] theorem raise_eng (e : CmdError) (s : State) : (s.raise e).eng = .idle := rfl
@[simp] theorem raise_curCmd (e : CmdError) (s : State) : (s.raise e).curCmd = s.curCmd := rfl
@[simp] theorem raise_curX (e : CmdError) (s : State) : (s.raise e).curX = s.curX := rfl
@[simp] theorem raise_curY (e : CmdError) (s : State) : (s.raise e).curY = s.curY := rfl
@[simp] theorem raise_mem (e : CmdError) (s : State) : (s.raise e).mem = s.mem := rfl
@[simp] theorem raise_silent (e : CmdError) (s : State) : (s.raise e).silent = s.silent := rfl
@[simp] theorem raise_mmioBase (e : CmdError) (s : State) : (s.raise e).mmioBase = s.mmioBase := rfl
@[simp] theorem raise_agenda (e : CmdError) (s : State) : (s.raise e).agenda = s.agenda := rfl
@[simp] theorem raise_waiting (e : CmdError) (s : State) : (s.raise e).waiting = s.waiting := rfl
@[simp] theorem raise_trace (e : CmdError) (s : State) : (s.raise e).trace = s.trace := rfl
@[simp] theorem raise_races (e : CmdError) (s : State) : (s.raise e).races = [] := rfl
@[simp] theorem raise_fresh (e : CmdError) (s : State) : (s.raise e).fresh = s.fresh := rfl
@[simp] theorem raise_rdata (e : CmdError) (s : State) : (s.raise e).rdata = s.rdata := rfl

/-! ### acknowledge -/

@[simp] theorem acknowledge_status (w : Word) (s : State) : (s.acknowledge w).status = statusClear w s.status := rfl
@[simp] theorem acknowledge_ctrl (w : Word) (s : State) : (s.acknowledge w).ctrl = s.ctrl := rfl
@[simp] theorem acknowledge_fmt (w : Word) (s : State) : (s.acknowledge w).fmt = s.fmt := rfl
@[simp] theorem acknowledge_descR (w : Word) (s : State) : (s.acknowledge w).descR = s.descR := rfl
@[simp] theorem acknowledge_descG (w : Word) (s : State) : (s.acknowledge w).descG = s.descG := rfl
@[simp] theorem acknowledge_descB (w : Word) (s : State) : (s.acknowledge w).descB = s.descB := rfl
@[simp] theorem acknowledge_descA (w : Word) (s : State) : (s.acknowledge w).descA = s.descA := rfl
@[simp] theorem acknowledge_maxval (w : Word) (s : State) : (s.acknowledge w).maxval = s.maxval := rfl
@[simp] theorem acknowledge_dim (w : Word) (s : State) : (s.acknowledge w).dim = s.dim := rfl
@[simp] theorem acknowledge_devBase (w : Word) (s : State) : (s.acknowledge w).devBase = s.devBase := rfl
@[simp] theorem acknowledge_devStride (w : Word) (s : State) : (s.acknowledge w).devStride = s.devStride := rfl
@[simp] theorem acknowledge_devOfs (w : Word) (s : State) : (s.acknowledge w).devOfs = s.devOfs := rfl
@[simp] theorem acknowledge_imgBase (w : Word) (s : State) : (s.acknowledge w).imgBase = s.imgBase := rfl
@[simp] theorem acknowledge_imgStride (w : Word) (s : State) : (s.acknowledge w).imgStride = s.imgStride := rfl
@[simp] theorem acknowledge_outBase (w : Word) (s : State) : (s.acknowledge w).outBase = s.outBase := rfl
@[simp] theorem acknowledge_pix (w : Word) (s : State) : (s.acknowledge w).pix = s.pix := rfl
@[simp] theorem acknowledge_dword (w : Word) (s : State) : (s.acknowledge w).dword = s.dword := rfl
@[simp] theorem acknowledge_xy (w : Word) (s : State) : (s.acknowledge w).xy = s.xy := rfl
@[simp] theorem acknowledge_maddr (w : Word) (s : State) : (s.acknowledge w).maddr = s.maddr := rfl
@[simp] theorem acknowledge_res (w : Word) (s : State) : (s.acknowledge w).res = s.res := rfl
@[simp] theorem acknowledge_ldata (w : Word) (s : State) : (s.acknowledge w).ldata = s.ldata := rfl
@[simp] theorem acknowledge_lut (w : Word) (s : State) : (s.acknowledge w).lut = s.lut := rfl
@[simp] theorem acknowledge_eng (w : Word) (s : State) : (s.acknowledge w).eng = s.eng := rfl
@[simp] theorem acknowledge_curCmd (w : Word) (s : State) : (s.acknowledge w).curCmd = s.curCmd := rfl
@[simp] theorem acknowledge_curX (w : Word) (s : State) : (s.acknowledge w).curX = s.curX := rfl
@[simp] theorem acknowledge_curY (w : Word) (s : State) : (s.acknowledge w).curY = s.curY := rfl
@[simp] theorem acknowledge_mem (w : Word) (s : State) : (s.acknowledge w).mem = s.mem := rfl
@[simp] theorem acknowledge_silent (w : Word) (s : State) : (s.acknowledge w).silent = s.silent := rfl
@[simp] theorem acknowledge_mmioBase (w : Word) (s : State) : (s.acknowledge w).mmioBase = s.mmioBase := rfl
@[simp] theorem acknowledge_agenda (w : Word) (s : State) : (s.acknowledge w).agenda = s.agenda := rfl
@[simp] theorem acknowledge_waiting (w : Word) (s : State) : (s.acknowledge w).waiting = s.waiting := rfl
@[simp] theorem acknowledge_trace (w : Word) (s : State) : (s.acknowledge w).trace = s.trace := rfl
@[simp] theorem acknowledge_races (w : Word) (s : State) : (s.acknowledge w).races = s.races := rfl
@[simp] theorem acknowledge_fresh (w : Word) (s : State) : (s.acknowledge w).fresh = s.fresh := rfl
@[simp] theorem acknowledge_rdata (w : Word) (s : State) : (s.acknowledge w).rdata = s.rdata := rfl

/-! ### overrun -/

@[simp] theorem overrun_status (s : State) : (s.overrun).status = statusOverrun s.status := rfl
@[simp] theorem overrun_ctrl (s : State) : (s.overrun).ctrl = s.ctrl := rfl
@[simp] theorem overrun_fmt (s : State) : (s.overrun).fmt = s.fmt := rfl
@[simp] theorem overrun_descR (s : State) : (s.overrun).descR = s.descR := rfl
@[simp] theorem overrun_descG (s : State) : (s.overrun).descG = s.descG := rfl
@[simp] theorem overrun_descB (s : State) : (s.overrun).descB = s.descB := rfl
@[simp] theorem overrun_descA (s : State) : (s.overrun).descA = s.descA := rfl
@[simp] theorem overrun_maxval (s : State) : (s.overrun).maxval = s.maxval := rfl
@[simp] theorem overrun_dim (s : State) : (s.overrun).dim = s.dim := rfl
@[simp] theorem overrun_devBase (s : State) : (s.overrun).devBase = s.devBase := rfl
@[simp] theorem overrun_devStride (s : State) : (s.overrun).devStride = s.devStride := rfl
@[simp] theorem overrun_devOfs (s : State) : (s.overrun).devOfs = s.devOfs := rfl
@[simp] theorem overrun_imgBase (s : State) : (s.overrun).imgBase = s.imgBase := rfl
@[simp] theorem overrun_imgStride (s : State) : (s.overrun).imgStride = s.imgStride := rfl
@[simp] theorem overrun_outBase (s : State) : (s.overrun).outBase = s.outBase := rfl
@[simp] theorem overrun_pix (s : State) : (s.overrun).pix = s.pix := rfl
@[simp] theorem overrun_dword (s : State) : (s.overrun).dword = s.dword := rfl
@[simp] theorem overrun_xy (s : State) : (s.overrun).xy = s.xy := rfl
@[simp] theorem overrun_maddr (s : State) : (s.overrun).maddr = s.maddr := rfl
@[simp] theorem overrun_res (s : State) : (s.overrun).res = s.res := rfl
@[simp] theorem overrun_ldata (s : State) : (s.overrun).ldata = s.ldata := rfl
@[simp] theorem overrun_lut (s : State) : (s.overrun).lut = s.lut := rfl
@[simp] theorem overrun_eng (s : State) : (s.overrun).eng = s.eng := rfl
@[simp] theorem overrun_curCmd (s : State) : (s.overrun).curCmd = s.curCmd := rfl
@[simp] theorem overrun_curX (s : State) : (s.overrun).curX = s.curX := rfl
@[simp] theorem overrun_curY (s : State) : (s.overrun).curY = s.curY := rfl
@[simp] theorem overrun_irq (s : State) : (s.overrun).irq = s.irq := rfl
@[simp] theorem overrun_mem (s : State) : (s.overrun).mem = s.mem := rfl
@[simp] theorem overrun_silent (s : State) : (s.overrun).silent = s.silent := rfl
@[simp] theorem overrun_mmioBase (s : State) : (s.overrun).mmioBase = s.mmioBase := rfl
@[simp] theorem overrun_agenda (s : State) : (s.overrun).agenda = s.agenda := rfl
@[simp] theorem overrun_waiting (s : State) : (s.overrun).waiting = s.waiting := rfl
@[simp] theorem overrun_trace (s : State) : (s.overrun).trace = s.trace := rfl
@[simp] theorem overrun_races (s : State) : (s.overrun).races = s.races := rfl
@[simp] theorem overrun_fresh (s : State) : (s.overrun).fresh = s.fresh := rfl
@[simp] theorem overrun_rdata (s : State) : (s.overrun).rdata = s.rdata := rfl

/-! ### storeByte -/

@[simp] theorem storeByte_status (a : Word) (v : Byte) (s : State) : (s.storeByte a v).status = s.status := rfl
@[simp] theorem storeByte_ctrl (a : Word) (v : Byte) (s : State) : (s.storeByte a v).ctrl = s.ctrl := rfl
@[simp] theorem storeByte_fmt (a : Word) (v : Byte) (s : State) : (s.storeByte a v).fmt = s.fmt := rfl
@[simp] theorem storeByte_descR (a : Word) (v : Byte) (s : State) : (s.storeByte a v).descR = s.descR := rfl
@[simp] theorem storeByte_descG (a : Word) (v : Byte) (s : State) : (s.storeByte a v).descG = s.descG := rfl
@[simp] theorem storeByte_descB (a : Word) (v : Byte) (s : State) : (s.storeByte a v).descB = s.descB := rfl
@[simp] theorem storeByte_descA (a : Word) (v : Byte) (s : State) : (s.storeByte a v).descA = s.descA := rfl
@[simp] theorem storeByte_maxval (a : Word) (v : Byte) (s : State) : (s.storeByte a v).maxval = s.maxval := rfl
@[simp] theorem storeByte_dim (a : Word) (v : Byte) (s : State) : (s.storeByte a v).dim = s.dim := rfl
@[simp] theorem storeByte_devBase (a : Word) (v : Byte) (s : State) : (s.storeByte a v).devBase = s.devBase := rfl
@[simp] theorem storeByte_devStride (a : Word) (v : Byte) (s : State) : (s.storeByte a v).devStride = s.devStride := rfl
@[simp] theorem storeByte_devOfs (a : Word) (v : Byte) (s : State) : (s.storeByte a v).devOfs = s.devOfs := rfl
@[simp] theorem storeByte_imgBase (a : Word) (v : Byte) (s : State) : (s.storeByte a v).imgBase = s.imgBase := rfl
@[simp] theorem storeByte_imgStride (a : Word) (v : Byte) (s : State) : (s.storeByte a v).imgStride = s.imgStride := rfl
@[simp] theorem storeByte_outBase (a : Word) (v : Byte) (s : State) : (s.storeByte a v).outBase = s.outBase := rfl
@[simp] theorem storeByte_pix (a : Word) (v : Byte) (s : State) : (s.storeByte a v).pix = s.pix := rfl
@[simp] theorem storeByte_dword (a : Word) (v : Byte) (s : State) : (s.storeByte a v).dword = s.dword := rfl
@[simp] theorem storeByte_xy (a : Word) (v : Byte) (s : State) : (s.storeByte a v).xy = s.xy := rfl
@[simp] theorem storeByte_maddr (a : Word) (v : Byte) (s : State) : (s.storeByte a v).maddr = s.maddr := rfl
@[simp] theorem storeByte_res (a : Word) (v : Byte) (s : State) : (s.storeByte a v).res = s.res := rfl
@[simp] theorem storeByte_ldata (a : Word) (v : Byte) (s : State) : (s.storeByte a v).ldata = s.ldata := rfl
@[simp] theorem storeByte_lut (a : Word) (v : Byte) (s : State) : (s.storeByte a v).lut = s.lut := rfl
@[simp] theorem storeByte_eng (a : Word) (v : Byte) (s : State) : (s.storeByte a v).eng = s.eng := rfl
@[simp] theorem storeByte_curCmd (a : Word) (v : Byte) (s : State) : (s.storeByte a v).curCmd = s.curCmd := rfl
@[simp] theorem storeByte_curX (a : Word) (v : Byte) (s : State) : (s.storeByte a v).curX = s.curX := rfl
@[simp] theorem storeByte_curY (a : Word) (v : Byte) (s : State) : (s.storeByte a v).curY = s.curY := rfl
@[simp] theorem storeByte_irq (a : Word) (v : Byte) (s : State) : (s.storeByte a v).irq = s.irq := rfl
@[simp] theorem storeByte_mem (a : Word) (v : Byte) (s : State) : (s.storeByte a v).mem = Memory.write s.mem a.toNat v := rfl
@[simp] theorem storeByte_silent (a : Word) (v : Byte) (s : State) : (s.storeByte a v).silent = s.silent := rfl
@[simp] theorem storeByte_mmioBase (a : Word) (v : Byte) (s : State) : (s.storeByte a v).mmioBase = s.mmioBase := rfl
@[simp] theorem storeByte_agenda (a : Word) (v : Byte) (s : State) : (s.storeByte a v).agenda = s.agenda := rfl
@[simp] theorem storeByte_waiting (a : Word) (v : Byte) (s : State) : (s.storeByte a v).waiting = s.waiting := rfl
@[simp] theorem storeByte_trace (a : Word) (v : Byte) (s : State) : (s.storeByte a v).trace = .write a v :: s.trace := rfl
@[simp] theorem storeByte_races (a : Word) (v : Byte) (s : State) : (s.storeByte a v).races = s.races := rfl
@[simp] theorem storeByte_fresh (a : Word) (v : Byte) (s : State) : (s.storeByte a v).fresh = s.fresh := rfl
@[simp] theorem storeByte_rdata (a : Word) (v : Byte) (s : State) : (s.storeByte a v).rdata = s.rdata := rfl

/-! ### atPixel -/

@[simp] theorem atPixel_status (xy : Nat × Nat) (s : State) : (s.atPixel xy).status = s.status := rfl
@[simp] theorem atPixel_ctrl (xy : Nat × Nat) (s : State) : (s.atPixel xy).ctrl = s.ctrl := rfl
@[simp] theorem atPixel_fmt (xy : Nat × Nat) (s : State) : (s.atPixel xy).fmt = s.fmt := rfl
@[simp] theorem atPixel_descR (xy : Nat × Nat) (s : State) : (s.atPixel xy).descR = s.descR := rfl
@[simp] theorem atPixel_descG (xy : Nat × Nat) (s : State) : (s.atPixel xy).descG = s.descG := rfl
@[simp] theorem atPixel_descB (xy : Nat × Nat) (s : State) : (s.atPixel xy).descB = s.descB := rfl
@[simp] theorem atPixel_descA (xy : Nat × Nat) (s : State) : (s.atPixel xy).descA = s.descA := rfl
@[simp] theorem atPixel_maxval (xy : Nat × Nat) (s : State) : (s.atPixel xy).maxval = s.maxval := rfl
@[simp] theorem atPixel_dim (xy : Nat × Nat) (s : State) : (s.atPixel xy).dim = s.dim := rfl
@[simp] theorem atPixel_devBase (xy : Nat × Nat) (s : State) : (s.atPixel xy).devBase = s.devBase := rfl
@[simp] theorem atPixel_devStride (xy : Nat × Nat) (s : State) : (s.atPixel xy).devStride = s.devStride := rfl
@[simp] theorem atPixel_devOfs (xy : Nat × Nat) (s : State) : (s.atPixel xy).devOfs = s.devOfs := rfl
@[simp] theorem atPixel_imgBase (xy : Nat × Nat) (s : State) : (s.atPixel xy).imgBase = s.imgBase := rfl
@[simp] theorem atPixel_imgStride (xy : Nat × Nat) (s : State) : (s.atPixel xy).imgStride = s.imgStride := rfl
@[simp] theorem atPixel_outBase (xy : Nat × Nat) (s : State) : (s.atPixel xy).outBase = s.outBase := rfl
@[simp] theorem atPixel_pix (xy : Nat × Nat) (s : State) : (s.atPixel xy).pix = s.pix := rfl
@[simp] theorem atPixel_dword (xy : Nat × Nat) (s : State) : (s.atPixel xy).dword = s.dword := rfl
@[simp] theorem atPixel_xy (xy : Nat × Nat) (s : State) : (s.atPixel xy).xy = s.xy := rfl
@[simp] theorem atPixel_maddr (xy : Nat × Nat) (s : State) : (s.atPixel xy).maddr = s.maddr := rfl
@[simp] theorem atPixel_res (xy : Nat × Nat) (s : State) : (s.atPixel xy).res = s.res := rfl
@[simp] theorem atPixel_ldata (xy : Nat × Nat) (s : State) : (s.atPixel xy).ldata = s.ldata := rfl
@[simp] theorem atPixel_lut (xy : Nat × Nat) (s : State) : (s.atPixel xy).lut = s.lut := rfl
@[simp] theorem atPixel_eng (xy : Nat × Nat) (s : State) : (s.atPixel xy).eng = s.eng := rfl
@[simp] theorem atPixel_curCmd (xy : Nat × Nat) (s : State) : (s.atPixel xy).curCmd = s.curCmd := rfl
@[simp] theorem atPixel_curX (xy : Nat × Nat) (s : State) : (s.atPixel xy).curX = BitVec.ofNat 16 xy.1 := rfl
@[simp] theorem atPixel_curY (xy : Nat × Nat) (s : State) : (s.atPixel xy).curY = BitVec.ofNat 16 xy.2 := rfl
@[simp] theorem atPixel_irq (xy : Nat × Nat) (s : State) : (s.atPixel xy).irq = s.irq := rfl
@[simp] theorem atPixel_mem (xy : Nat × Nat) (s : State) : (s.atPixel xy).mem = s.mem := rfl
@[simp] theorem atPixel_silent (xy : Nat × Nat) (s : State) : (s.atPixel xy).silent = s.silent := rfl
@[simp] theorem atPixel_mmioBase (xy : Nat × Nat) (s : State) : (s.atPixel xy).mmioBase = s.mmioBase := rfl
@[simp] theorem atPixel_agenda (xy : Nat × Nat) (s : State) : (s.atPixel xy).agenda = s.agenda := rfl
@[simp] theorem atPixel_waiting (xy : Nat × Nat) (s : State) : (s.atPixel xy).waiting = s.waiting := rfl
@[simp] theorem atPixel_trace (xy : Nat × Nat) (s : State) : (s.atPixel xy).trace = s.trace := rfl
@[simp] theorem atPixel_races (xy : Nat × Nat) (s : State) : (s.atPixel xy).races = s.races := rfl
@[simp] theorem atPixel_fresh (xy : Nat × Nat) (s : State) : (s.atPixel xy).fresh = s.fresh := rfl
@[simp] theorem atPixel_rdata (xy : Nat × Nat) (s : State) : (s.atPixel xy).rdata = s.rdata := rfl

/-! ### passDone -/

@[simp] theorem passDone_status (s : State) : (s.passDone).status = s.status := rfl
@[simp] theorem passDone_ctrl (s : State) : (s.passDone).ctrl = s.ctrl := rfl
@[simp] theorem passDone_fmt (s : State) : (s.passDone).fmt = s.fmt := rfl
@[simp] theorem passDone_descR (s : State) : (s.passDone).descR = s.descR := rfl
@[simp] theorem passDone_descG (s : State) : (s.passDone).descG = s.descG := rfl
@[simp] theorem passDone_descB (s : State) : (s.passDone).descB = s.descB := rfl
@[simp] theorem passDone_descA (s : State) : (s.passDone).descA = s.descA := rfl
@[simp] theorem passDone_maxval (s : State) : (s.passDone).maxval = s.maxval := rfl
@[simp] theorem passDone_dim (s : State) : (s.passDone).dim = s.dim := rfl
@[simp] theorem passDone_devBase (s : State) : (s.passDone).devBase = s.devBase := rfl
@[simp] theorem passDone_devStride (s : State) : (s.passDone).devStride = s.devStride := rfl
@[simp] theorem passDone_devOfs (s : State) : (s.passDone).devOfs = s.devOfs := rfl
@[simp] theorem passDone_imgBase (s : State) : (s.passDone).imgBase = s.imgBase := rfl
@[simp] theorem passDone_imgStride (s : State) : (s.passDone).imgStride = s.imgStride := rfl
@[simp] theorem passDone_outBase (s : State) : (s.passDone).outBase = s.outBase := rfl
@[simp] theorem passDone_pix (s : State) : (s.passDone).pix = s.pix := rfl
@[simp] theorem passDone_dword (s : State) : (s.passDone).dword = s.dword := rfl
@[simp] theorem passDone_xy (s : State) : (s.passDone).xy = s.xy := rfl
@[simp] theorem passDone_maddr (s : State) : (s.passDone).maddr = s.maddr := rfl
@[simp] theorem passDone_res (s : State) : (s.passDone).res = s.res := rfl
@[simp] theorem passDone_ldata (s : State) : (s.passDone).ldata = s.ldata := rfl
@[simp] theorem passDone_lut (s : State) : (s.passDone).lut = s.lut := rfl
@[simp] theorem passDone_eng (s : State) : (s.passDone).eng = s.eng := rfl
@[simp] theorem passDone_curCmd (s : State) : (s.passDone).curCmd = s.curCmd := rfl
@[simp] theorem passDone_curX (s : State) : (s.passDone).curX = s.curX := rfl
@[simp] theorem passDone_curY (s : State) : (s.passDone).curY = BitVec.ofNat 16 s.height := rfl
@[simp] theorem passDone_irq (s : State) : (s.passDone).irq = s.irq := rfl
@[simp] theorem passDone_mem (s : State) : (s.passDone).mem = s.mem := rfl
@[simp] theorem passDone_silent (s : State) : (s.passDone).silent = s.silent := rfl
@[simp] theorem passDone_mmioBase (s : State) : (s.passDone).mmioBase = s.mmioBase := rfl
@[simp] theorem passDone_agenda (s : State) : (s.passDone).agenda = s.agenda := rfl
@[simp] theorem passDone_waiting (s : State) : (s.passDone).waiting = s.waiting := rfl
@[simp] theorem passDone_trace (s : State) : (s.passDone).trace = s.trace := rfl
@[simp] theorem passDone_races (s : State) : (s.passDone).races = s.races := rfl
@[simp] theorem passDone_fresh (s : State) : (s.passDone).fresh = s.fresh := rfl
@[simp] theorem passDone_rdata (s : State) : (s.passDone).rdata = s.rdata := rfl

/-! ### setLut -/

@[simp] theorem setLut_status (c : Channel) (i : BitVec 8) (v : BitVec 16) (s : State) : (s.setLut c i v).status = s.status := rfl
@[simp] theorem setLut_ctrl (c : Channel) (i : BitVec 8) (v : BitVec 16) (s : State) : (s.setLut c i v).ctrl = s.ctrl := rfl
@[simp] theorem setLut_fmt (c : Channel) (i : BitVec 8) (v : BitVec 16) (s : State) : (s.setLut c i v).fmt = s.fmt := rfl
@[simp] theorem setLut_descR (c : Channel) (i : BitVec 8) (v : BitVec 16) (s : State) : (s.setLut c i v).descR = s.descR := rfl
@[simp] theorem setLut_descG (c : Channel) (i : BitVec 8) (v : BitVec 16) (s : State) : (s.setLut c i v).descG = s.descG := rfl
@[simp] theorem setLut_descB (c : Channel) (i : BitVec 8) (v : BitVec 16) (s : State) : (s.setLut c i v).descB = s.descB := rfl
@[simp] theorem setLut_descA (c : Channel) (i : BitVec 8) (v : BitVec 16) (s : State) : (s.setLut c i v).descA = s.descA := rfl
@[simp] theorem setLut_maxval (c : Channel) (i : BitVec 8) (v : BitVec 16) (s : State) : (s.setLut c i v).maxval = s.maxval := rfl
@[simp] theorem setLut_dim (c : Channel) (i : BitVec 8) (v : BitVec 16) (s : State) : (s.setLut c i v).dim = s.dim := rfl
@[simp] theorem setLut_devBase (c : Channel) (i : BitVec 8) (v : BitVec 16) (s : State) : (s.setLut c i v).devBase = s.devBase := rfl
@[simp] theorem setLut_devStride (c : Channel) (i : BitVec 8) (v : BitVec 16) (s : State) : (s.setLut c i v).devStride = s.devStride := rfl
@[simp] theorem setLut_devOfs (c : Channel) (i : BitVec 8) (v : BitVec 16) (s : State) : (s.setLut c i v).devOfs = s.devOfs := rfl
@[simp] theorem setLut_imgBase (c : Channel) (i : BitVec 8) (v : BitVec 16) (s : State) : (s.setLut c i v).imgBase = s.imgBase := rfl
@[simp] theorem setLut_imgStride (c : Channel) (i : BitVec 8) (v : BitVec 16) (s : State) : (s.setLut c i v).imgStride = s.imgStride := rfl
@[simp] theorem setLut_outBase (c : Channel) (i : BitVec 8) (v : BitVec 16) (s : State) : (s.setLut c i v).outBase = s.outBase := rfl
@[simp] theorem setLut_pix (c : Channel) (i : BitVec 8) (v : BitVec 16) (s : State) : (s.setLut c i v).pix = s.pix := rfl
@[simp] theorem setLut_dword (c : Channel) (i : BitVec 8) (v : BitVec 16) (s : State) : (s.setLut c i v).dword = s.dword := rfl
@[simp] theorem setLut_xy (c : Channel) (i : BitVec 8) (v : BitVec 16) (s : State) : (s.setLut c i v).xy = s.xy := rfl
@[simp] theorem setLut_maddr (c : Channel) (i : BitVec 8) (v : BitVec 16) (s : State) : (s.setLut c i v).maddr = s.maddr := rfl
@[simp] theorem setLut_res (c : Channel) (i : BitVec 8) (v : BitVec 16) (s : State) : (s.setLut c i v).res = s.res := rfl
@[simp] theorem setLut_ldata (c : Channel) (i : BitVec 8) (v : BitVec 16) (s : State) : (s.setLut c i v).ldata = s.ldata := rfl
@[simp] theorem setLut_eng (c : Channel) (i : BitVec 8) (v : BitVec 16) (s : State) : (s.setLut c i v).eng = s.eng := rfl
@[simp] theorem setLut_curCmd (c : Channel) (i : BitVec 8) (v : BitVec 16) (s : State) : (s.setLut c i v).curCmd = s.curCmd := rfl
@[simp] theorem setLut_curX (c : Channel) (i : BitVec 8) (v : BitVec 16) (s : State) : (s.setLut c i v).curX = s.curX := rfl
@[simp] theorem setLut_curY (c : Channel) (i : BitVec 8) (v : BitVec 16) (s : State) : (s.setLut c i v).curY = s.curY := rfl
@[simp] theorem setLut_irq (c : Channel) (i : BitVec 8) (v : BitVec 16) (s : State) : (s.setLut c i v).irq = s.irq := rfl
@[simp] theorem setLut_mem (c : Channel) (i : BitVec 8) (v : BitVec 16) (s : State) : (s.setLut c i v).mem = s.mem := rfl
@[simp] theorem setLut_silent (c : Channel) (i : BitVec 8) (v : BitVec 16) (s : State) : (s.setLut c i v).silent = s.silent := rfl
@[simp] theorem setLut_mmioBase (c : Channel) (i : BitVec 8) (v : BitVec 16) (s : State) : (s.setLut c i v).mmioBase = s.mmioBase := rfl
@[simp] theorem setLut_agenda (c : Channel) (i : BitVec 8) (v : BitVec 16) (s : State) : (s.setLut c i v).agenda = s.agenda := rfl
@[simp] theorem setLut_waiting (c : Channel) (i : BitVec 8) (v : BitVec 16) (s : State) : (s.setLut c i v).waiting = s.waiting := rfl
@[simp] theorem setLut_trace (c : Channel) (i : BitVec 8) (v : BitVec 16) (s : State) : (s.setLut c i v).trace = s.trace := rfl
@[simp] theorem setLut_races (c : Channel) (i : BitVec 8) (v : BitVec 16) (s : State) : (s.setLut c i v).races = s.races := rfl
@[simp] theorem setLut_fresh (c : Channel) (i : BitVec 8) (v : BitVec 16) (s : State) : (s.setLut c i v).fresh = s.fresh := rfl
@[simp] theorem setLut_rdata (c : Channel) (i : BitVec 8) (v : BitVec 16) (s : State) : (s.setLut c i v).rdata = s.rdata := rfl

/-! ### rampLut -/

@[simp] theorem rampLut_status (s : State) : (s.rampLut).status = s.status := rfl
@[simp] theorem rampLut_ctrl (s : State) : (s.rampLut).ctrl = s.ctrl := rfl
@[simp] theorem rampLut_fmt (s : State) : (s.rampLut).fmt = s.fmt := rfl
@[simp] theorem rampLut_descR (s : State) : (s.rampLut).descR = s.descR := rfl
@[simp] theorem rampLut_descG (s : State) : (s.rampLut).descG = s.descG := rfl
@[simp] theorem rampLut_descB (s : State) : (s.rampLut).descB = s.descB := rfl
@[simp] theorem rampLut_descA (s : State) : (s.rampLut).descA = s.descA := rfl
@[simp] theorem rampLut_maxval (s : State) : (s.rampLut).maxval = s.maxval := rfl
@[simp] theorem rampLut_dim (s : State) : (s.rampLut).dim = s.dim := rfl
@[simp] theorem rampLut_devBase (s : State) : (s.rampLut).devBase = s.devBase := rfl
@[simp] theorem rampLut_devStride (s : State) : (s.rampLut).devStride = s.devStride := rfl
@[simp] theorem rampLut_devOfs (s : State) : (s.rampLut).devOfs = s.devOfs := rfl
@[simp] theorem rampLut_imgBase (s : State) : (s.rampLut).imgBase = s.imgBase := rfl
@[simp] theorem rampLut_imgStride (s : State) : (s.rampLut).imgStride = s.imgStride := rfl
@[simp] theorem rampLut_outBase (s : State) : (s.rampLut).outBase = s.outBase := rfl
@[simp] theorem rampLut_pix (s : State) : (s.rampLut).pix = s.pix := rfl
@[simp] theorem rampLut_dword (s : State) : (s.rampLut).dword = s.dword := rfl
@[simp] theorem rampLut_xy (s : State) : (s.rampLut).xy = s.xy := rfl
@[simp] theorem rampLut_maddr (s : State) : (s.rampLut).maddr = s.maddr := rfl
@[simp] theorem rampLut_res (s : State) : (s.rampLut).res = s.res := rfl
@[simp] theorem rampLut_ldata (s : State) : (s.rampLut).ldata = s.ldata := rfl
@[simp] theorem rampLut_lut (s : State) : (s.rampLut).lut = tabulate 4 (fun c => s.rampTable (channelOfNat c)) := rfl
@[simp] theorem rampLut_eng (s : State) : (s.rampLut).eng = s.eng := rfl
@[simp] theorem rampLut_curCmd (s : State) : (s.rampLut).curCmd = s.curCmd := rfl
@[simp] theorem rampLut_curX (s : State) : (s.rampLut).curX = s.curX := rfl
@[simp] theorem rampLut_curY (s : State) : (s.rampLut).curY = s.curY := rfl
@[simp] theorem rampLut_irq (s : State) : (s.rampLut).irq = s.irq := rfl
@[simp] theorem rampLut_mem (s : State) : (s.rampLut).mem = s.mem := rfl
@[simp] theorem rampLut_silent (s : State) : (s.rampLut).silent = s.silent := rfl
@[simp] theorem rampLut_mmioBase (s : State) : (s.rampLut).mmioBase = s.mmioBase := rfl
@[simp] theorem rampLut_agenda (s : State) : (s.rampLut).agenda = s.agenda := rfl
@[simp] theorem rampLut_waiting (s : State) : (s.rampLut).waiting = s.waiting := rfl
@[simp] theorem rampLut_trace (s : State) : (s.rampLut).trace = s.trace := rfl
@[simp] theorem rampLut_races (s : State) : (s.rampLut).races = s.races := rfl
@[simp] theorem rampLut_fresh (s : State) : (s.rampLut).fresh = s.fresh := rfl
@[simp] theorem rampLut_rdata (s : State) : (s.rampLut).rdata = s.rdata := rfl

/-! ### writeCtrl -/

@[simp] theorem writeCtrl_status (v : Word) (s : State) : (s.writeCtrl v).status = s.status := rfl
@[simp] theorem writeCtrl_ctrl (v : Word) (s : State) : (s.writeCtrl v).ctrl = v &&& Reg.fields .ctrl := rfl
@[simp] theorem writeCtrl_fmt (v : Word) (s : State) : (s.writeCtrl v).fmt = s.fmt := rfl
@[simp] theorem writeCtrl_descR (v : Word) (s : State) : (s.writeCtrl v).descR = s.descR := rfl
@[simp] theorem writeCtrl_descG (v : Word) (s : State) : (s.writeCtrl v).descG = s.descG := rfl
@[simp] theorem writeCtrl_descB (v : Word) (s : State) : (s.writeCtrl v).descB = s.descB := rfl
@[simp] theorem writeCtrl_descA (v : Word) (s : State) : (s.writeCtrl v).descA = s.descA := rfl
@[simp] theorem writeCtrl_maxval (v : Word) (s : State) : (s.writeCtrl v).maxval = s.maxval := rfl
@[simp] theorem writeCtrl_dim (v : Word) (s : State) : (s.writeCtrl v).dim = s.dim := rfl
@[simp] theorem writeCtrl_devBase (v : Word) (s : State) : (s.writeCtrl v).devBase = s.devBase := rfl
@[simp] theorem writeCtrl_devStride (v : Word) (s : State) : (s.writeCtrl v).devStride = s.devStride := rfl
@[simp] theorem writeCtrl_devOfs (v : Word) (s : State) : (s.writeCtrl v).devOfs = s.devOfs := rfl
@[simp] theorem writeCtrl_imgBase (v : Word) (s : State) : (s.writeCtrl v).imgBase = s.imgBase := rfl
@[simp] theorem writeCtrl_imgStride (v : Word) (s : State) : (s.writeCtrl v).imgStride = s.imgStride := rfl
@[simp] theorem writeCtrl_outBase (v : Word) (s : State) : (s.writeCtrl v).outBase = s.outBase := rfl
@[simp] theorem writeCtrl_pix (v : Word) (s : State) : (s.writeCtrl v).pix = s.pix := rfl
@[simp] theorem writeCtrl_dword (v : Word) (s : State) : (s.writeCtrl v).dword = s.dword := rfl
@[simp] theorem writeCtrl_xy (v : Word) (s : State) : (s.writeCtrl v).xy = s.xy := rfl
@[simp] theorem writeCtrl_maddr (v : Word) (s : State) : (s.writeCtrl v).maddr = s.maddr := rfl
@[simp] theorem writeCtrl_res (v : Word) (s : State) : (s.writeCtrl v).res = s.res := rfl
@[simp] theorem writeCtrl_ldata (v : Word) (s : State) : (s.writeCtrl v).ldata = s.ldata := rfl
@[simp] theorem writeCtrl_lut (v : Word) (s : State) : (s.writeCtrl v).lut = s.lut := rfl
@[simp] theorem writeCtrl_eng (v : Word) (s : State) : (s.writeCtrl v).eng = s.eng := rfl
@[simp] theorem writeCtrl_curCmd (v : Word) (s : State) : (s.writeCtrl v).curCmd = s.curCmd := rfl
@[simp] theorem writeCtrl_curX (v : Word) (s : State) : (s.writeCtrl v).curX = s.curX := rfl
@[simp] theorem writeCtrl_curY (v : Word) (s : State) : (s.writeCtrl v).curY = s.curY := rfl
@[simp] theorem writeCtrl_mem (v : Word) (s : State) : (s.writeCtrl v).mem = s.mem := rfl
@[simp] theorem writeCtrl_silent (v : Word) (s : State) : (s.writeCtrl v).silent = s.silent := rfl
@[simp] theorem writeCtrl_mmioBase (v : Word) (s : State) : (s.writeCtrl v).mmioBase = s.mmioBase := rfl
@[simp] theorem writeCtrl_agenda (v : Word) (s : State) : (s.writeCtrl v).agenda = s.agenda := rfl
@[simp] theorem writeCtrl_waiting (v : Word) (s : State) : (s.writeCtrl v).waiting = s.waiting := rfl
@[simp] theorem writeCtrl_trace (v : Word) (s : State) : (s.writeCtrl v).trace = s.trace := rfl
@[simp] theorem writeCtrl_races (v : Word) (s : State) : (s.writeCtrl v).races = s.races := rfl
@[simp] theorem writeCtrl_fresh (v : Word) (s : State) : (s.writeCtrl v).fresh = s.fresh := rfl
@[simp] theorem writeCtrl_rdata (v : Word) (s : State) : (s.writeCtrl v).rdata = s.rdata := rfl

/-! ### hardReset -/

@[simp] theorem hardReset_status (s : State) : (s.hardReset).status = 0 := rfl
@[simp] theorem hardReset_ctrl (s : State) : (s.hardReset).ctrl = 0 := rfl
@[simp] theorem hardReset_fmt (s : State) : (s.hardReset).fmt = 0 := rfl
@[simp] theorem hardReset_descR (s : State) : (s.hardReset).descR = 0 := rfl
@[simp] theorem hardReset_descG (s : State) : (s.hardReset).descG = 0 := rfl
@[simp] theorem hardReset_descB (s : State) : (s.hardReset).descB = 0 := rfl
@[simp] theorem hardReset_descA (s : State) : (s.hardReset).descA = 0 := rfl
@[simp] theorem hardReset_maxval (s : State) : (s.hardReset).maxval = 0 := rfl
@[simp] theorem hardReset_dim (s : State) : (s.hardReset).dim = 0 := rfl
@[simp] theorem hardReset_devBase (s : State) : (s.hardReset).devBase = 0 := rfl
@[simp] theorem hardReset_devStride (s : State) : (s.hardReset).devStride = 0 := rfl
@[simp] theorem hardReset_devOfs (s : State) : (s.hardReset).devOfs = 0 := rfl
@[simp] theorem hardReset_imgBase (s : State) : (s.hardReset).imgBase = 0 := rfl
@[simp] theorem hardReset_imgStride (s : State) : (s.hardReset).imgStride = 0 := rfl
@[simp] theorem hardReset_outBase (s : State) : (s.hardReset).outBase = 0 := rfl
@[simp] theorem hardReset_pix (s : State) : (s.hardReset).pix = 0 := rfl
@[simp] theorem hardReset_dword (s : State) : (s.hardReset).dword = 0 := rfl
@[simp] theorem hardReset_xy (s : State) : (s.hardReset).xy = 0 := rfl
@[simp] theorem hardReset_maddr (s : State) : (s.hardReset).maddr = 0 := rfl
@[simp] theorem hardReset_res (s : State) : (s.hardReset).res = 0 := rfl
@[simp] theorem hardReset_ldata (s : State) : (s.hardReset).ldata = 0 := rfl
@[simp] theorem hardReset_lut (s : State) : (s.hardReset).lut = lutReset := rfl
@[simp] theorem hardReset_eng (s : State) : (s.hardReset).eng = .idle := rfl
@[simp] theorem hardReset_curCmd (s : State) : (s.hardReset).curCmd = 0 := rfl
@[simp] theorem hardReset_curX (s : State) : (s.hardReset).curX = 0 := rfl
@[simp] theorem hardReset_curY (s : State) : (s.hardReset).curY = 0 := rfl
@[simp] theorem hardReset_irq (s : State) : (s.hardReset).irq = false := rfl
@[simp] theorem hardReset_mem (s : State) : (s.hardReset).mem = s.mem := rfl
@[simp] theorem hardReset_silent (s : State) : (s.hardReset).silent = s.silent := rfl
@[simp] theorem hardReset_mmioBase (s : State) : (s.hardReset).mmioBase = s.mmioBase := rfl
@[simp] theorem hardReset_agenda (s : State) : (s.hardReset).agenda = s.agenda := rfl
@[simp] theorem hardReset_waiting (s : State) : (s.hardReset).waiting = none := rfl
@[simp] theorem hardReset_trace (s : State) : (s.hardReset).trace = s.trace := rfl
@[simp] theorem hardReset_races (s : State) : (s.hardReset).races = [] := rfl
@[simp] theorem hardReset_fresh (s : State) : (s.hardReset).fresh = s.fresh := rfl
@[simp] theorem hardReset_rdata (s : State) : (s.hardReset).rdata = s.rdata := rfl

end Sys2Proof.Machine
end

