-- ==== Sys2Proof/Laws/Status.lean ====
section
/-! SUPPORT. What each STATUS update does to each field of STATUS (R26), and what the lifecycle operations leave
(R170, R172, R187, R190). -/

namespace Sys2Proof.Machine

/-- A word is determined by its bits; used to reduce a masked word to a statement about one bit. -/
theorem extract_eq_of_bits {n : Nat} (v w : Word) (lo : Nat)
    (h : ∀ j, j < n → v.getLsbD (lo + j) = w.getLsbD (lo + j)) :
    v.extractLsb' lo n = w.extractLsb' lo n := by
  apply BitVec.eq_of_getLsbD_eq
  intro j hj
  simp only [BitVec.getLsbD_extractLsb', hj, decide_true, Bool.true_and]
  exact h j hj

theorem statusAccept_bit0 (v : Word) : (statusAccept v).getLsbD 0 = true := by simp [statusAccept]
theorem statusAccept_bit1 (v : Word) : (statusAccept v).getLsbD 1 = false := by simp [statusAccept]
theorem statusAccept_bit2 (v : Word) : (statusAccept v).getLsbD 2 = v.getLsbD 2 := by simp [statusAccept]
theorem statusAccept_err (v : Word) : (statusAccept v).extractLsb' 4 4 = 0#4 := by
  apply BitVec.eq_of_getLsbD_eq
  intro j hj
  interval_cases j <;> simp [statusAccept]

theorem statusComplete_bit0 (v : Word) : (statusComplete v).getLsbD 0 = false := by simp [statusComplete]
theorem statusComplete_bit1 (v : Word) : (statusComplete v).getLsbD 1 = true := by simp [statusComplete]
theorem statusComplete_bit2 (v : Word) : (statusComplete v).getLsbD 2 = v.getLsbD 2 := by simp [statusComplete]
theorem statusComplete_err (v : Word) : (statusComplete v).extractLsb' 4 4 = v.extractLsb' 4 4 := by
  apply BitVec.eq_of_getLsbD_eq
  intro j hj
  interval_cases j <;> simp [statusComplete]

theorem statusRaise_bit0 (e : CmdError) (v : Word) : (statusRaise e v).getLsbD 0 = false := by
  simp [statusRaise]
theorem statusRaise_bit1 (e : CmdError) (v : Word) : (statusRaise e v).getLsbD 1 = true := by
  simp [statusRaise]
theorem statusRaise_bit2 (e : CmdError) (v : Word) : (statusRaise e v).getLsbD 2 = v.getLsbD 2 := by
  simp [statusRaise]
theorem statusRaise_err (e : CmdError) (v : Word) : (statusRaise e v).extractLsb' 4 4 = e.code := by
  apply BitVec.eq_of_getLsbD_eq
  intro j hj
  cases e <;> interval_cases j <;> simp [statusRaise, CmdError.code]

theorem statusOverrun_bit0 (v : Word) : (statusOverrun v).getLsbD 0 = v.getLsbD 0 := by simp [statusOverrun]
theorem statusOverrun_bit1 (v : Word) : (statusOverrun v).getLsbD 1 = v.getLsbD 1 := by simp [statusOverrun]
theorem statusOverrun_bit2 (v : Word) : (statusOverrun v).getLsbD 2 = true := by simp [statusOverrun]
theorem statusOverrun_err (v : Word) : (statusOverrun v).extractLsb' 4 4 = v.extractLsb' 4 4 := by
  apply BitVec.eq_of_getLsbD_eq
  intro j hj
  interval_cases j <;> simp [statusOverrun]

theorem statusClear_bit0 (w v : Word) : (statusClear w v).getLsbD 0 = v.getLsbD 0 := by simp [statusClear]
theorem statusClear_bit1 (w v : Word) : (statusClear w v).getLsbD 1 = (v.getLsbD 1 && !w.getLsbD 1) := by
  simp [statusClear]
theorem statusClear_bit2 (w v : Word) : (statusClear w v).getLsbD 2 = (v.getLsbD 2 && !w.getLsbD 2) := by
  simp [statusClear]
theorem statusClear_err (w v : Word) : (statusClear w v).extractLsb' 4 4 = v.extractLsb' 4 4 := by
  apply BitVec.eq_of_getLsbD_eq
  intro j hj
  interval_cases j <;> simp [statusClear]

/-- No operation of the lifecycle touches the reserved bits of STATUS. -/
theorem statusComplete_rest (v : Word) : statusComplete v &&& 0xFFFFFF08#32 = v &&& 0xFFFFFF08#32 := by
  apply BitVec.eq_of_getLsbD_eq
  intro j hj
  interval_cases j <;> simp [statusComplete]

theorem statusRaise_rest (e : CmdError) (v : Word) : statusRaise e v &&& 0xFFFFFF08#32 = v &&& 0xFFFFFF08#32 := by
  apply BitVec.eq_of_getLsbD_eq
  intro j hj
  cases e <;> interval_cases j <;> simp [statusRaise, CmdError.code]

/-! The four fields of STATUS after each operation. -/

@[simp] theorem accept_busy (v : Word) (s : State) : (s.accept v).busy = true := statusAccept_bit0 s.status
@[simp] theorem accept_done (v : Word) (s : State) : (s.accept v).done = false := statusAccept_bit1 s.status
@[simp] theorem accept_ovr (v : Word) (s : State) : (s.accept v).ovr = s.ovr := statusAccept_bit2 s.status
@[simp] theorem accept_err (v : Word) (s : State) : (s.accept v).err = 0#4 := statusAccept_err s.status

@[simp] theorem complete_busy (s : State) : (s.complete).busy = false := statusComplete_bit0 s.status
@[simp] theorem complete_done (s : State) : (s.complete).done = true := statusComplete_bit1 s.status
@[simp] theorem complete_ovr (s : State) : (s.complete).ovr = s.ovr := statusComplete_bit2 s.status
@[simp] theorem complete_err (s : State) : (s.complete).err = s.err := statusComplete_err s.status

@[simp] theorem raise_busy (e : CmdError) (s : State) : (s.raise e).busy = false := statusRaise_bit0 e s.status
@[simp] theorem raise_done (e : CmdError) (s : State) : (s.raise e).done = true := statusRaise_bit1 e s.status
@[simp] theorem raise_ovr (e : CmdError) (s : State) : (s.raise e).ovr = s.ovr := statusRaise_bit2 e s.status
@[simp] theorem raise_err (e : CmdError) (s : State) : (s.raise e).err = e.code := statusRaise_err e s.status

@[simp] theorem overrun_busy (s : State) : (s.overrun).busy = s.busy := statusOverrun_bit0 s.status
@[simp] theorem overrun_done (s : State) : (s.overrun).done = s.done := statusOverrun_bit1 s.status
@[simp] theorem overrun_ovr (s : State) : (s.overrun).ovr = true := statusOverrun_bit2 s.status
@[simp] theorem overrun_err (s : State) : (s.overrun).err = s.err := statusOverrun_err s.status

@[simp] theorem acknowledge_busy (w : Word) (s : State) : (s.acknowledge w).busy = s.busy := statusClear_bit0 w s.status
@[simp] theorem acknowledge_done (w : Word) (s : State) : (s.acknowledge w).done = (s.done && !w.getLsbD 1) := statusClear_bit1 w s.status
@[simp] theorem acknowledge_ovr (w : Word) (s : State) : (s.acknowledge w).ovr = (s.ovr && !w.getLsbD 2) := statusClear_bit2 w s.status
@[simp] theorem acknowledge_err (w : Word) (s : State) : (s.acknowledge w).err = s.err := statusClear_err w s.status

/-! The interrupt output after each operation that writes DONE or IE (R190). -/

@[simp] theorem accept_irq (v : Word) (s : State) : (s.accept v).irq = false := by
  change ((statusAccept s.status).getLsbD 1 && s.ie) = false
  rw [statusAccept_bit1, Bool.false_and]

@[simp] theorem complete_irq (s : State) : s.complete.irq = s.ie := by
  change ((statusComplete s.status).getLsbD 1 && s.ie) = s.ie
  rw [statusComplete_bit1, Bool.true_and]

@[simp] theorem raise_irq (e : CmdError) (s : State) : (s.raise e).irq = s.ie := by
  change ((statusRaise e s.status).getLsbD 1 && s.ie) = s.ie
  rw [statusRaise_bit1, Bool.true_and]

@[simp] theorem acknowledge_irq (w : Word) (s : State) :
    (s.acknowledge w).irq = ((s.done && !w.getLsbD 1) && s.ie) := by
  change ((statusClear w s.status).getLsbD 1 && s.ie) = _
  rw [statusClear_bit1]
  rfl

@[simp] theorem writeCtrl_irq (v : Word) (s : State) : (s.writeCtrl v).irq = (s.done && v.getLsbD 0) := by
  change (s.done && (v &&& Reg.fields .ctrl).getLsbD 0) = _
  rw [BitVec.getLsbD_and]
  simp [Reg.fields]

/-- What `complete` leaves (R172, R190). -/
theorem complete_completed (s : State) : Completed s s.complete where
  busy := complete_busy s
  done := complete_done s
  err := complete_err s
  ovr := complete_ovr s
  rest := statusComplete_rest s.status
  eng := rfl
  irq := complete_irq s
  races := rfl

/-- What `raise` leaves (R172, R187, R190). -/
theorem raise_errored (e : CmdError) (s : State) : Errored e s (s.raise e) where
  busy := raise_busy e s
  done := raise_done e s
  err := raise_err e s
  ovr := raise_ovr e s
  rest := statusRaise_rest e s.status
  eng := rfl
  irq := raise_irq e s
  frame := rfl

/-- `Completed` compares STATUS and CTRL only. -/
theorem complete_completed_from {s u : State} (hs : u.status = s.status) (hc : u.ctrl = s.ctrl) :
    Completed s u.complete := by
  obtain ⟨h1, h2, h3, h4, h5, h6, h7, h8⟩ := complete_completed u
  exact ⟨h1, h2, by rw [h3]; simp [State.err, hs], by rw [h4]; simp [State.ovr, hs], by rw [h5, hs], h6,
    by rw [h7]; simp [State.ie, hc], h8⟩

end Sys2Proof.Machine
end

