-- ==== Sys2Proof/Laws/Bank.lean ====
section
/-! SUPPORT. What a host access to the register window comes to (R21 to R24), said once. -/

namespace Sys2Proof.Machine

/-- Each named register is found at its own offset (R21). -/
@[simp] theorem ofOffset_offset (r : Reg) : Reg.ofOffset r.offset = some r := by cases r <;> decide

theorem offset_lt (r : Reg) : r.offset < 0x58 := by cases r <;> decide

theorem offset_aligned (r : Reg) : r.offset % 4 = 0 := by cases r <;> decide

/-- Offsets 0x58 to 0xFF are unmapped (R23). -/
theorem ofOffset_unmapped (k : Nat) (h : 0x58 ≤ k) : Reg.ofOffset k = none := by
  unfold Reg.ofOffset
  rw [List.find?_eq_none]
  intro r _
  have := offset_lt r
  simp
  omega

/-- An aligned 32-bit access in the window has the offset of its address. -/
theorem busOffset_ok {s : State} {k : Nat} (hb : s.mmioBase % 4 = 0) (hk : k < 256) (ha : k % 4 = 0) :
    busOffset s (s.mmioBase + k) 4 = .ok k := by
  unfold busOffset Config.mmioSize
  rw [if_neg (by omega), if_neg (by omega)]
  congr 1
  omega

/-- A host write at the offset of a register is a write to that register. -/
theorem hostWrite_reg {s : State} (r : Reg) (v : Word) (hb : s.mmioBase % 4 = 0) :
    hostWrite (s.mmioBase + r.offset) 4 v s = .next (s.writeReg r v) := by
  have := offset_lt r
  simp [hostWrite, busOffset_ok hb (by omega) (offset_aligned r)]

/-- A host read at the offset of a register reads that register. -/
theorem hostRead_reg {s : State} (r : Reg) (hb : s.mmioBase % 4 = 0) :
    hostRead (s.mmioBase + r.offset) 4 s = .next (s.readTo r) := by
  have := offset_lt r
  simp [hostRead, busOffset_ok hb (by omega) (offset_aligned r)]

theorem hostWrite_unmapped {s : State} {k : Nat} (v : Word) (hb : s.mmioBase % 4 = 0) (h1 : 0x58 ≤ k)
    (h2 : k < 256) (h3 : k % 4 = 0) : hostWrite (s.mmioBase + k) 4 v s = .next s := by
  simp [hostWrite, busOffset_ok hb h2 h3, ofOffset_unmapped k h1]

theorem hostRead_unmapped {s : State} {k : Nat} (hb : s.mmioBase % 4 = 0) (h1 : 0x58 ≤ k) (h2 : k < 256)
    (h3 : k % 4 = 0) : hostRead (s.mmioBase + k) 4 s = .next { s with rdata := 0 } := by
  simp [hostRead, busOffset_ok hb h2 h3, ofOffset_unmapped k h1]

/-- A host write comes to a write of some register, to nothing, or stops. -/
theorem hostWrite_next {addr size : Nat} {v : Word} {s t : State} (h : hostWrite addr size v s = .next t) :
    t = s ∨ ∃ r : Reg, t = s.writeReg r v := by
  unfold hostWrite at h
  split at h
  · cases h
  · cases h
  · split at h
    · next r _ => cases h; exact .inr ⟨r, rfl⟩
    · cases h; exact .inl rfl

/-- A host read changes `rdata` and the count of free values only. -/
theorem hostRead_next {addr size : Nat} {s t : State} (h : hostRead addr size s = .next t) :
    t = { s with rdata := t.rdata, fresh := t.fresh } := by
  unfold hostRead at h
  split at h
  · cases h
  · cases h
  · split at h
    · cases h
      unfold State.readTo
      split <;> rfl
    · cases h; rfl

/-! The host polls again exactly when bit 0 of what it read is 1; going on or not changes the agenda only (R97). -/

@[simp] theorem pollAgain_rdata (addr : Nat) (s : State) : (s.pollAgain addr).rdata = s.rdata := by
  unfold State.pollAgain
  split <;> rfl

@[simp] theorem pollAgain_agenda (addr : Nat) (s : State) :
    (s.pollAgain addr).agenda = if s.rdata.getLsbD 0 then .engine :: .busPoll addr :: s.agenda else s.agenda := by
  unfold State.pollAgain
  split <;> rfl

theorem pollAgain_frame (addr : Nat) (s : State) : s.pollAgain addr = { s with agenda := (s.pollAgain addr).agenda } := by
  unfold State.pollAgain
  split <;> rfl

/-- One read of the loop: a host read, and the loop's own turns put back while bit 0 reads 1. -/
theorem hostPoll_next {addr : Nat} {s t : State} (h : hostPoll addr s = .next t) :
    ∃ u, hostRead addr 4 s = .next u ∧ t = u.pollAgain addr := by
  unfold hostPoll at h
  split at h
  · next u hu => cases h; exact ⟨u, hu, rfl⟩
  · cases h
  · cases h

/-- A poll of STATUS while BUSY = 1 puts the engine's turn and itself back on the agenda. -/
theorem hostPoll_busy {s : State} (hb : s.mmioBase % 4 = 0) (h : s.busy = true) :
    hostPoll (s.mmioBase + Reg.status.offset) s =
      .next { s with
        rdata := s.readReg .status,
        agenda := .engine :: .busPoll (s.mmioBase + Reg.status.offset) :: s.agenda } := by
  have hr : s.readTo .status = { s with rdata := s.readReg .status } := by simp [State.readTo, Reg.volatile]
  have h0 : (s.readReg .status).getLsbD 0 = true := by
    have : (s.status &&& Reg.fields .status).getLsbD 0 = true := by
      rw [BitVec.getLsbD_and]
      have h1 : s.status.getLsbD 0 = true := h
      rw [h1]
      decide
    exact this
  simp only [hostPoll, hostRead_reg .status hb, hr, State.pollAgain, h0, if_true]

/-- A poll of STATUS while BUSY = 0 ends the loop. -/
theorem hostPoll_ready {s : State} (hb : s.mmioBase % 4 = 0) (h : s.busy = false) :
    hostPoll (s.mmioBase + Reg.status.offset) s = .next { s with rdata := s.readReg .status } := by
  have hr : s.readTo .status = { s with rdata := s.readReg .status } := by simp [State.readTo, Reg.volatile]
  have h0 : (s.readReg .status).getLsbD 0 = false := by
    have : (s.status &&& Reg.fields .status).getLsbD 0 = false := by
      rw [BitVec.getLsbD_and]
      have h1 : s.status.getLsbD 0 = false := h
      rw [h1, Bool.false_and]
    exact this
  simp only [hostPoll, hostRead_reg .status hb, hr, State.pollAgain, h0, Bool.false_eq_true, if_false]

/-- A stored configuration or data register holds the written value less its reserved bits (R24, R46). -/
theorem setReg_stored (s : State) (r : Reg) (v : Word) (h1 : r ≠ .cmd) (h2 : r ≠ .status) (h3 : r ≠ .ctrl)
    (h4 : r ≠ .res) : (s.setReg r v).stored r = v &&& r.fields := by
  cases r <;> first | contradiction | rfl

/-- Storing one register leaves every other register alone: no register aliases another (R45). -/
theorem setReg_stored_other (s : State) (r q : Reg) (v : Word) (h : q ≠ r) :
    (s.setReg r v).stored q = s.stored q := by
  cases r <;> cases q <;> first | contradiction | rfl

end Sys2Proof.Machine
end

