-- ==== Sys2Proof/Laws/Memory.lean ====
section
/-! SUPPORT. The laws of memory: read after write, and that every memory operation keeps the canonical form. -/

namespace Sys2Proof.Machine

theorem read_put_same (m : List Host.Cell) (a : Nat) (v : Byte) : Memory.read (Memory.put m a v) a = v := by
  induction m with
  | nil => simp [Memory.put, Memory.read]
  | cons c rest ih =>
    obtain ⟨k, u⟩ := c
    unfold Memory.put
    split
    · simp [Memory.read]
    · split
      · simp [Memory.read]
      · next h1 h2 => simp [Memory.read, Ne.symm h2, ih]

theorem read_put_other (m : List Host.Cell) (a b : Nat) (v : Byte) (h : a ≠ b) :
    Memory.read (Memory.put m a v) b = Memory.read m b := by
  induction m with
  | nil => simp [Memory.put, Memory.read, h]
  | cons c rest ih =>
    obtain ⟨k, u⟩ := c
    unfold Memory.put
    split
    · simp [Memory.read, h]
    · split
      · next h2 => subst h2; simp [Memory.read, h]
      · simp [Memory.read, ih]

theorem read_filter_same (m : List Host.Cell) (a : Nat) :
    Memory.read (m.filter (fun c => c.1 ≠ a)) a = Config.unlistedByte := by
  induction m with
  | nil => simp [Memory.read]
  | cons c rest ih =>
    obtain ⟨k, u⟩ := c
    by_cases h : k = a
    · simpa [h] using ih
    · simp only [ne_eq, h, not_false_eq_true, decide_true, List.filter_cons_of_pos, Memory.read, if_false]
      exact ih

theorem read_filter_other (m : List Host.Cell) (a b : Nat) (h : a ≠ b) :
    Memory.read (m.filter (fun c => c.1 ≠ a)) b = Memory.read m b := by
  induction m with
  | nil => simp
  | cons c rest ih =>
    obtain ⟨k, u⟩ := c
    by_cases hk : k = a
    · subst hk
      simp only [ne_eq, not_true_eq_false, decide_false, Bool.false_eq_true, not_false_eq_true,
        List.filter_cons_of_neg, Memory.read, h, if_false]
      exact ih
    · simp only [ne_eq, hk, not_false_eq_true, decide_true, List.filter_cons_of_pos, Memory.read]
      split
      · rfl
      · exact ih

/-- A read after a write to the same place gives the value written. -/
@[simp] theorem read_write_same (m : List Host.Cell) (a : Nat) (v : Byte) :
    Memory.read (Memory.write m a v) a = v := by
  unfold Memory.write
  split
  · next h => rw [h]; exact read_filter_same m a
  · exact read_put_same m a v

/-- A write leaves every other place alone. -/
theorem read_write_other (m : List Host.Cell) (a b : Nat) (v : Byte) (h : a ≠ b) :
    Memory.read (Memory.write m a v) b = Memory.read m b := by
  unfold Memory.write
  split
  · exact read_filter_other m a b h
  · exact read_put_other m a b v h

theorem all_put (p : Host.Cell → Bool) (m : List Host.Cell) (a : Nat) (v : Byte) (h : m.all p = true)
    (ha : p (a, v) = true) : (Memory.put m a v).all p = true := by
  induction m with
  | nil => simp [Memory.put, ha]
  | cons c rest ih =>
    obtain ⟨k, u⟩ := c
    simp only [List.all_cons, Bool.and_eq_true] at h
    unfold Memory.put
    split
    · simp [h.1, h.2, ha]
    · split
      · simp [h.2, ha]
      · simp [h.1, ih h.2]

theorem wf_put (m : List Host.Cell) (a : Nat) (v : Byte) (h : Memory.wf m = true) (ha : a < 2 ^ 32)
    (hv : v ≠ Config.unlistedByte) : Memory.wf (Memory.put m a v) = true := by
  induction m with
  | nil => simpa [Memory.put, Memory.wf, hv] using ha
  | cons c rest ih =>
    obtain ⟨k, u⟩ := c
    have h0 := h
    simp only [Memory.wf, Bool.and_eq_true, decide_eq_true_eq] at h
    obtain ⟨⟨⟨hu, hk⟩, hall⟩, hrest⟩ := h
    unfold Memory.put
    split
    · next hlt =>
      have hall' : rest.all (fun c => decide (a < c.1)) = true := by
        simp only [List.all_eq_true, decide_eq_true_eq] at hall ⊢
        exact fun c hc => lt_trans hlt (hall c hc)
      rw [Memory.wf, h0]
      simp [hv, hlt, hall']
      omega
    · next hge =>
      split
      · next heq =>
        subst heq
        rw [Memory.wf, hrest, hall]
        simp [hv]
        omega
      · next hne =>
        rw [Memory.wf, ih hrest, all_put _ rest a v hall (by simp; omega)]
        simp [hu]
        omega

theorem wf_filter (m : List Host.Cell) (p : Host.Cell → Bool) (h : Memory.wf m = true) :
    Memory.wf (m.filter p) = true := by
  induction m with
  | nil => simpa using h
  | cons c rest ih =>
    obtain ⟨k, u⟩ := c
    simp only [Memory.wf, Bool.and_eq_true, decide_eq_true_eq] at h
    obtain ⟨⟨⟨hu, hk⟩, hall⟩, hrest⟩ := h
    by_cases hp : p (k, u) = true
    · rw [List.filter_cons_of_pos hp, Memory.wf, ih hrest]
      have : (rest.filter p).all (fun c => decide (k < c.1)) = true := by
        simp only [List.all_eq_true, decide_eq_true_eq] at hall ⊢
        exact fun c hc => hall c (List.mem_of_mem_filter hc)
      simp [hu, this]
      omega
    · rw [List.filter_cons_of_neg hp]
      exact ih hrest

/-- A write keeps the canonical form. -/
theorem wf_write (m : List Host.Cell) (a : Nat) (v : Byte) (h : Memory.wf m = true) (ha : a < 2 ^ 32) :
    Memory.wf (Memory.write m a v) = true := by
  unfold Memory.write
  split
  · exact wf_filter m _ h
  · next hv => exact wf_put m a v h ha hv

/-- A write at a 32-bit address keeps the canonical form. -/
theorem wf_write_word (m : List Host.Cell) (a : Word) (v : Byte) (h : Memory.wf m = true) :
    Memory.wf (Memory.write m a.toNat v) = true := wf_write m a.toNat v h a.isLt

/-- Doing the writes of a list of byte events keeps the canonical form. -/
theorem wf_replay (evs : List MemEvent) (m : List Host.Cell) (h : Memory.wf m = true) :
    Memory.wf (replay evs m) = true := by
  induction evs generalizing m with
  | nil => exact h
  | cons e rest ih =>
    cases e with
    | read a v => exact ih m h
    | write a v => exact ih _ (wf_write_word m a v h)

/-- The memory after reset has the canonical form. -/
theorem wf_reset : Memory.wf State.reset.mem = true := rfl

/-- A byte of memory after a store, by address. -/
theorem byteAt_storeByte (s : State) (a b : Word) (v : Byte) :
    (s.storeByte a v).byteAt b = if a = b then v else s.byteAt b := by
  unfold State.byteAt
  split
  · next h => subst h; simp
  · next h =>
    rw [storeByte_mem, read_write_other]
    exact fun hab => h (BitVec.eq_of_toNat_eq hab)

end Sys2Proof.Machine
end

