-- ==== Sys2Proof/Laws/Port.lean ====
section
/-! SUPPORT. What engine work can do to a state, and what the byte port does when every access is answered, no host
store races with it and no byte lies in an overlap. -/

namespace Sys2Proof.Machine

/-! ### What engine work may change -/

/-- Engine work takes s to t: only PIX, DWORD, the pass counters, memory, an unanswered access, the byte events and the
count of free values may differ. -/
def Works (s t : State) : Prop :=
  t = { s with
        pix := t.pix, dword := t.dword, curX := t.curX, curY := t.curY, mem := t.mem, waiting := t.waiting,
        trace := t.trace, fresh := t.fresh }

theorem works_refl (s : State) : Works s s := rfl

theorem works_trans {s t u : State} (h1 : Works s t) (h2 : Works t u) : Works s u := by
  obtain ⟨⟩ := u
  obtain ⟨⟩ := t
  simp only [Works, State.mk.injEq] at h1 h2 ⊢
  simp_all

/-- A state reached by a record update of the fields engine work may change. -/
theorem works_of_eq {s t : State} {p d : Word} {x y : Half} {m : List Host.Cell} {w : Option Word}
    {tr : List MemEvent} {f : Nat}
    (h : t = { s with
      pix := p, dword := d, curX := x, curY := y, mem := m, waiting := w, trace := tr, fresh := f }) :
    Works s t := by
  subst h; rfl

theorem works_fmt {s t : State} (h : Works s t) : t.fmt = s.fmt := by rw [h]
theorem works_dim {s t : State} (h : Works s t) : t.dim = s.dim := by rw [h]
theorem works_maxval {s t : State} (h : Works s t) : t.maxval = s.maxval := by rw [h]
theorem works_status {s t : State} (h : Works s t) : t.status = s.status := by rw [h]
theorem works_ctrl {s t : State} (h : Works s t) : t.ctrl = s.ctrl := by rw [h]
theorem works_eng {s t : State} (h : Works s t) : t.eng = s.eng := by rw [h]
theorem works_irq {s t : State} (h : Works s t) : t.irq = s.irq := by rw [h]
theorem works_races {s t : State} (h : Works s t) : t.races = s.races := by rw [h]
theorem works_silent {s t : State} (h : Works s t) : t.silent = s.silent := by rw [h]
theorem works_lut {s t : State} (h : Works s t) : t.lut = s.lut := by rw [h]

/-! The datapath functions read configuration registers only, so engine work does not change them. -/

theorem works_bpp {s t : State} (h : Works s t) : t.bpp = s.bpp := by rw [h]; rfl
theorem works_maxv {s t : State} (h : Works s t) : t.maxv = s.maxv := by rw [h]; rfl
theorem works_width {s t : State} (h : Works s t) : t.width = s.width := by rw [h]; rfl
theorem works_height {s t : State} (h : Works s t) : t.height = s.height := by rw [h]; rfl
theorem works_admits {s t : State} (h : Works s t) : t.admits = s.admits := by rw [h]; rfl
theorem works_displaced {s t : State} (h : Works s t) : t.displaced = s.displaced := by rw [h]; rfl
theorem works_devAddr {s t : State} (h : Works s t) : t.devAddr = s.devAddr := by rw [h]; rfl
theorem works_imgAddr {s t : State} (h : Works s t) : t.imgAddr = s.imgAddr := by rw [h]; rfl
theorem works_outAddr {s t : State} (h : Works s t) : t.outAddr = s.outAddr := by rw [h]; rfl
theorem works_off {s t : State} (h : Works s t) : t.off = s.off := by
  funext c; rw [h]; cases c <;> rfl
theorem works_wid {s t : State} (h : Works s t) : t.wid = s.wid := by
  funext c; rw [h]; cases c <;> rfl
theorem works_packWord {s t : State} (h : Works s t) : t.packWord = s.packWord := by
  funext p; simp only [State.packWord, State.packField, works_off h, works_wid h]
theorem works_unpackWord {s t : State} (h : Works s t) : t.unpackWord = s.unpackWord := by
  funext w; simp only [State.unpackWord, State.extractField, works_off h, works_wid h, works_bpp h]
theorem works_quiet {s t : State} (h : Works s t) (hq : s.quiet) : t.quiet := (works_races h).trans hq

/-! ### Every piece of engine work stays within `Works` -/

/-- The state a piece of work ends in satisfies P. -/
def Run.Ends {α : Type} (P : State → Prop) (r : Run α) : Prop :=
  match r with
  | .ok _ s => P s
  | .hung s => P s

theorem ends_bind {α β : Type} {P : State → Prop} {r : Run α} {f : α → State → Run β}
    (hr : r.Ends P) (hf : ∀ a t, P t → (f a t).Ends P) : (r.bind f).Ends P := by
  cases r with
  | ok a t => exact hf a t hr
  | hung t => exact hr

theorem portRead_works (free : Overlap) (a : Word) (s : State) : (portRead free a s).Ends (Works s) := by
  unfold portRead
  split
  · split
    · exact works_of_eq rfl
    · split <;> exact works_of_eq rfl
  · exact works_of_eq rfl

theorem portWrite_works (free : Overlap) (a : Word) (v : Byte) (s : State) :
    (portWrite free a v s).Ends (Works s) := by
  unfold portWrite
  split
  · split
    · exact works_of_eq rfl
    · split <;> exact works_of_eq rfl
  · exact works_of_eq rfl

theorem ends_works_trans {α : Type} {s t : State} {r : Run α} (h : Works s t) (hr : r.Ends (Works t)) :
    r.Ends (Works s) := by
  cases r <;> exact works_trans h hr

theorem readBytes_works (free : Overlap) (n : Nat) (a : Word) (s : State) :
    (readBytes free n a s).Ends (Works s) := by
  induction n generalizing a s with
  | zero => exact works_refl s
  | succ n ih =>
    refine ends_bind (portRead_works free a s) fun b t ht => ?_
    exact ends_bind (ends_works_trans ht (ih (a + 1) t)) fun bs u hu => hu

theorem writeBytes_works (free : Overlap) (bs : List Byte) (a : Word) (s : State) :
    (writeBytes free a bs s).Ends (Works s) := by
  induction bs generalizing a s with
  | nil => exact works_refl s
  | cons b bs ih =>
    exact ends_bind (portWrite_works free a b s) fun _ t ht => ends_works_trans ht (ih (a + 1) t)

theorem decodeAt_works (free : Overlap) (a : Word) (m : Nat) (s : State) :
    (decodeAt free a m s).Ends (Works s) :=
  ends_bind (readBytes_works free _ a s) fun _ _ h => h

theorem encodeAt_works (free : Overlap) (a p : Word) (s : State) : (encodeAt free a p s).Ends (Works s) :=
  writeBytes_works free _ a s

theorem readDevicePixel_works (free : Overlap) (a : Word) (s : State) :
    (readDevicePixel free a s).Ends (Works s) :=
  ends_bind (readBytes_works free _ a s) fun _ _ h => h

theorem writeDevicePixel_works (free : Overlap) (a w : Word) (s : State) :
    (writeDevicePixel free a w s).Ends (Works s) := writeBytes_works free _ a s

theorem todevPixel_works (free : Overlap) (xy : Nat × Nat) (s : State) : (todevPixel free xy s).Ends (Works s) := by
  have h0 : Works s (s.atPixel xy) := works_of_eq rfl
  refine ends_bind (ends_works_trans h0 (decodeAt_works free _ _ _)) fun p t ht => ?_
  have h1 : Works s { t with pix := p, dword := t.packWord p } := works_trans ht (works_of_eq rfl)
  exact ends_works_trans h1 (writeDevicePixel_works free _ _ _)

theorem fromdevPixel_works (free : Overlap) (xy : Nat × Nat) (s : State) :
    (fromdevPixel free xy s).Ends (Works s) := by
  have h0 : Works s (s.atPixel xy) := works_of_eq rfl
  refine ends_bind (ends_works_trans h0 (readDevicePixel_works free _ _)) fun w t ht => ?_
  have h1 : Works s { t with dword := w, pix := t.unpackWord w } := works_trans ht (works_of_eq rfl)
  exact ends_works_trans h1 (encodeAt_works free _ _ _)

theorem forEach_works {α : Type} {f : α → State → Run Unit} (hf : ∀ a s, (f a s).Ends (Works s)) (l : List α)
    (s : State) : (forEach f l s).Ends (Works s) := by
  induction l generalizing s with
  | nil => exact works_refl s
  | cons a rest ih => exact ends_bind (hf a s) fun _ t ht => ends_works_trans ht (ih t)

/-! ### The byte port when nothing disturbs it -/

theorem plus_zero (a : Word) : plus a 0 = a := by simp [plus]

theorem plus_succ (a : Word) (k : Nat) : plus (a + 1) k = plus a (k + 1) := by
  simp only [plus]
  rw [BitVec.add_assoc]
  congr 1
  apply BitVec.eq_of_toNat_eq
  simp [BitVec.toNat_add, BitVec.toNat_ofNat]
  omega

theorem admitsSpan_head {s : State} {a : Word} {n : Nat} (h : s.admitsSpan a (n + 1)) : s.admits a = true := by
  have := h 0 (Nat.succ_pos n)
  rwa [plus_zero] at this

theorem admitsSpan_tail {s : State} {a : Word} {n : Nat} (h : s.admitsSpan a (n + 1)) : s.admitsSpan (a + 1) n := by
  intro k hk
  rw [plus_succ]
  exact h (k + 1) (Nat.succ_lt_succ hk)

theorem displaced_quiet {s : State} (h : s.quiet) (a : Word) : s.displaced a = [] := by
  unfold State.quiet at h
  simp [State.displaced, h]

/-- An answered read without race or overlap returns the byte memory holds, and is one event. -/
theorem portRead_calm {free : Overlap} {a : Word} {s : State} (ha : s.admits a = true) (hf : free a = false)
    (hq : s.quiet) :
    portRead free a s = .ok (s.byteAt a) { s with trace := .read a (s.byteAt a) :: s.trace } := by
  unfold portRead
  rw [if_pos ha, hf, displaced_quiet hq]
  rfl

/-- An answered write without race or overlap stores the byte, and is one event. -/
theorem portWrite_calm {free : Overlap} {a : Word} {v : Byte} {s : State} (ha : s.admits a = true)
    (hf : free a = false) (hq : s.quiet) : portWrite free a v s = .ok () (s.storeByte a v) := by
  unfold portWrite
  rw [if_pos ha, hf, displaced_quiet hq]
  rfl

/-- An access the platform does not answer changes nothing but the record of it (R72). -/
theorem portRead_hung {free : Overlap} {a : Word} {s : State} (ha : s.admits a = false) :
    portRead free a s = .hung { s with waiting := some a } := by
  unfold portRead
  rw [ha]
  rfl

theorem portWrite_hung {free : Overlap} {a : Word} {v : Byte} {s : State} (ha : s.admits a = false) :
    portWrite free a v s = .hung { s with waiting := some a } := by
  unfold portWrite
  rw [ha]
  rfl

theorem bytesAt_succ (s : State) (a : Word) (n : Nat) :
    s.bytesAt a (n + 1) = s.byteAt a :: s.bytesAt (a + 1) n := by
  simp only [State.bytesAt, List.range_succ_eq_map, List.map_cons, List.map_map, plus_zero]
  congr 1
  apply List.map_congr_left
  intro k _
  simp only [Function.comp, plus_succ, Nat.succ_eq_add_one]

theorem readEvents_succ (s : State) (a : Word) (n : Nat) :
    s.readEvents a (n + 1) = .read a (s.byteAt a) :: s.readEvents (a + 1) n := by
  simp only [State.readEvents, List.range_succ_eq_map, List.map_cons, List.map_map, plus_zero]
  congr 1
  apply List.map_congr_left
  intro k _
  simp only [Function.comp, plus_succ, Nat.succ_eq_add_one]

theorem writeEvents_cons (a : Word) (b : Byte) (bs : List Byte) :
    writeEvents a (b :: bs) = .write a b :: writeEvents (a + 1) bs := by
  simp only [writeEvents, List.length_cons, List.range_succ_eq_map, List.map_cons, List.map_map, plus_zero]
  congr 1
  apply List.map_congr_left
  intro k _
  simp only [Function.comp, plus_succ, Nat.succ_eq_add_one]
  rfl

/-- n answered reads return the n bytes of memory and are n events, in increasing address order (R9, R75). -/
theorem readBytes_calm {free : Overlap} {n : Nat} {a : Word} {s : State} (ha : s.admitsSpan a n)
    (hf : ∀ k, k < n → free (plus a k) = false) (hq : s.quiet) :
    readBytes free n a s = .ok (s.bytesAt a n) { s with trace := (s.readEvents a n).reverse ++ s.trace } := by
  induction n generalizing a s with
  | zero => rfl
  | succ n ih =>
    have hf0 : free a = false := by have := hf 0 (Nat.succ_pos n); rwa [plus_zero] at this
    have hf1 : ∀ k, k < n → free (plus (a + 1) k) = false := fun k hk => by
      rw [plus_succ]; exact hf (k + 1) (Nat.succ_lt_succ hk)
    unfold readBytes
    rw [portRead_calm (admitsSpan_head ha) hf0 hq]
    simp only [Run.bind]
    rw [ih (s := { s with trace := .read a (s.byteAt a) :: s.trace }) (admitsSpan_tail ha) hf1 hq]
    simp only [bytesAt_succ, readEvents_succ, List.reverse_cons, List.append_assoc, List.singleton_append]
    rfl

/-- Store the bytes at a, a + 1, ..., one event each. -/
def State.storeBytes (s : State) : Word → List Byte → State
  | _, [] => s
  | a, b :: bs => (s.storeByte a b).storeBytes (a + 1) bs

/-- Answered writes store the bytes, one event each, in increasing address order (R9, R75). -/
theorem writeBytes_calm {free : Overlap} {bs : List Byte} {a : Word} {s : State} (ha : s.admitsSpan a bs.length)
    (hf : ∀ k, k < bs.length → free (plus a k) = false) (hq : s.quiet) :
    writeBytes free a bs s = .ok () (s.storeBytes a bs) := by
  induction bs generalizing a s with
  | nil => rfl
  | cons b bs ih =>
    have hf0 : free a = false := by have := hf 0 (Nat.succ_pos _); rwa [plus_zero] at this
    have hf1 : ∀ k, k < bs.length → free (plus (a + 1) k) = false := fun k hk => by
      rw [plus_succ]; exact hf (k + 1) (Nat.succ_lt_succ hk)
    unfold writeBytes
    rw [portWrite_calm (admitsSpan_head ha) hf0 hq]
    simp only [Run.bind, State.storeBytes]
    exact ih (s := s.storeByte a b) (admitsSpan_tail ha) hf1 hq

/-- Storing bytes changes memory and the record of events only. -/
theorem storeBytes_frame (s : State) (a : Word) (bs : List Byte) :
    s.storeBytes a bs =
      { s with mem := (s.storeBytes a bs).mem, trace := (writeEvents a bs).reverse ++ s.trace } := by
  induction bs generalizing a s with
  | nil => rfl
  | cons b bs ih =>
    simp only [State.storeBytes]
    rw [ih (s.storeByte a b) (a + 1), writeEvents_cons]
    simp only [List.reverse_cons, List.append_assoc, List.singleton_append]
    rfl

/-- A byte outside the stored ones reads as before. -/
theorem byteAt_storeBytes_other (s : State) (a b : Word) (bs : List Byte)
    (h : ∀ k, k < bs.length → plus a k ≠ b) : (s.storeBytes a bs).byteAt b = s.byteAt b := by
  induction bs generalizing a s with
  | nil => rfl
  | cons v bs ih =>
    simp only [State.storeBytes]
    rw [ih]
    · rw [byteAt_storeByte, if_neg]
      have := h 0 (Nat.succ_pos _)
      rwa [plus_zero] at this
    · intro k hk
      rw [plus_succ]
      exact h (k + 1) (Nat.succ_lt_succ hk)

/-- Byte k of a run of fewer than 2^32 stored bytes is the k-th of them. -/
theorem byteAt_storeBytes_at (s : State) (a : Word) (bs : List Byte) (k : Nat) (hk : k < bs.length)
    (hn : bs.length ≤ 2 ^ 32) : (s.storeBytes a bs).byteAt (plus a k) = bs.getD k 0 := by
  induction bs generalizing a s k with
  | nil => simp at hk
  | cons v bs ih =>
    simp only [State.storeBytes]
    cases k with
    | zero =>
      rw [plus_zero, byteAt_storeBytes_other, byteAt_storeByte, if_pos rfl]
      · simp
      · intro j hj
        rw [plus_succ]
        intro he
        have h1 := congrArg BitVec.toNat he
        simp only [plus, BitVec.toNat_add, BitVec.toNat_ofNat, List.length_cons] at h1 hn hj
        have h2 := a.isLt
        omega
    | succ k =>
      rw [← plus_succ, ih]
      · simp
      · simpa using hk
      · simp at hn; omega

end Sys2Proof.Machine
end

