-- ==== Sys2Proof/Laws/Datapath.lean ====
section
/-! SUPPORT. What each datapath function and each LUT update comes to, said once: bit by bit for the fields
(42_bitfield_packer.md), byte by byte for the byte lists, address by address for the spans of the footprints. -/

namespace Sys2Proof.Machine

/-- Entry i of a table built from f is f i. -/
theorem tabulate_get {α : Type} {n : Nat} (f : Nat → α) (i : Fin n) : (tabulate n f).get i = f i := by
  simp [tabulate, Vector.get]
  rfl

/-! ### Fields -/

/-- `FormatOK()` in the terms of R181. -/
theorem formatOk_iff (s : State) :
    s.formatOk = true ↔ (s.bpp ∈ [1, 2, 3, 4] ∧ s.vis ∈ [2, 3, 4, 5] ∧ ∀ c, s.wid c ≤ 8) := by
  have h : (∀ c, s.wid c ≤ 8) ↔
      (s.wid .red ≤ 8 ∧ s.wid .green ≤ 8 ∧ s.wid .blue ≤ 8 ∧ s.wid .alpha ≤ 8) := by
    constructor
    · intro h; exact ⟨h _, h _, h _, h _⟩
    · rintro ⟨a, b, c, d⟩ x; cases x <;> assumption
  rw [h]
  unfold State.formatOk isDirect isIndexed Config.widMax
  generalize s.wid .red = x
  generalize s.wid .green = y
  generalize s.wid .blue = z
  generalize s.wid .alpha = w
  generalize s.bpp = p
  generalize s.vis = q
  simp only [Bool.and_eq_true, decide_eq_true_eq, Bool.or_eq_true, beq_iff_eq, List.mem_cons, List.not_mem_nil, or_false]
  omega

theorem wid_le {s : State} (h : s.formatOk = true) (c : Channel) : s.wid c ≤ 8 := ((formatOk_iff s).1 h).2.2 c

theorem bpp_le {s : State} (h : s.formatOk = true) : 1 ≤ s.bpp ∧ s.bpp ≤ 4 := by
  have := ((formatOk_iff s).1 h).1
  simp at this
  omega

/-- Channel c of a pixel value is 8 bits of it (R110, R111). -/
theorem chan_toNat (p : Word) (c : Channel) :
    (chan p c).toNat =
      p.toNat / 2 ^ (match c with | .red => 16 | .green => 8 | .blue => 0 | .alpha => 24) % 256 := by
  cases c <;> simp [chan, Nat.shiftRight_eq_div_pow]

/-- The extracted field, bit by bit (R131). -/
theorem extractChannel_bit (w : Word) (off wid j : Nat) (h : wid ≤ 8) :
    (extractChannel w off wid).getLsbD j = fieldBit w off wid j := by
  unfold extractChannel fieldBit mask
  simp only [BitVec.getLsbD_ofNat, Nat.testBit_shiftLeft, Nat.testBit_and, Nat.testBit_shiftRight,
    Nat.testBit_two_pow_sub_one]
  by_cases h1 : 8 - wid ≤ j <;> by_cases h2 : j < 8
  · simp only [h1, h2, decide_true, Bool.true_and]
    have : decide (j - (8 - wid) < wid) = true := by simp; omega
    rw [this, Bool.and_true, ← BitVec.getLsbD, Nat.add_sub_assoc h1]
  all_goals simp [h1, h2]

/-- The contribution of a channel, bit by bit (R132). -/
theorem packChannel_bit (v : Byte) (off wid j : Nat) (h : wid ≤ 8) (hj : j < 32) :
    (packChannel v off wid).getLsbD j = contribBit v off wid j := by
  unfold packChannel contribBit
  simp only [BitVec.getLsbD_ofNat, Nat.testBit_shiftLeft, Nat.testBit_shiftRight, hj, decide_true, Bool.true_and,
    ge_iff_le]
  by_cases h1 : off ≤ j <;> by_cases h2 : j < off + wid
  · simp only [h1, h2, decide_true, Bool.true_and]
    rw [← BitVec.getLsbD, Nat.add_comm]
  · simp only [h1, h2, decide_true, Bool.true_and, decide_false, Bool.false_and]
    rw [← BitVec.getLsbD]
    exact BitVec.getLsbD_of_ge _ _ (by omega)
  all_goals simp [h1, h2]

/-- The mask of bpp bytes, bit by bit (R135). -/
theorem bppMask_bit (b j : Nat) (hj : j < 32) : (bppMask b).getLsbD j = decide (j < 8 * b) := by
  unfold bppMask mask
  rw [BitVec.getLsbD_ofNat, Nat.testBit_two_pow_sub_one]
  simp only [hj, decide_true, Bool.true_and]

/-! ### Byte lists -/

/-- Byte k of a little-endian value (R63). -/
theorem leValue_byte (bs : List Byte) (k : Nat) : leValue bs / 256 ^ k % 256 = (bs.getD k 0).toNat := by
  induction bs generalizing k with
  | nil => simp [leValue]
  | cons b bs ih =>
    cases k with
    | zero => have := b.isLt; simp [leValue]; omega
    | succ k =>
      rw [leValue, pow_succ, Nat.mul_comm (256 ^ k), ← Nat.div_div_eq_div_mul]
      have : (b.toNat + 256 * leValue bs) / 256 = leValue bs := by have := b.isLt; omega
      rw [this, ih]
      simp

theorem leValue_lt (bs : List Byte) : leValue bs < 256 ^ bs.length := by
  induction bs with
  | nil => simp [leValue]
  | cons b bs ih => simp only [leValue, List.length_cons, pow_succ]; have := b.isLt; omega

theorem wordBytes_length (n : Nat) (w : Word) : (wordBytes n w).length = n := by simp [wordBytes]

/-- Masking a word to bpp bytes does not change its low bpp bytes (R135, R138). -/
theorem wordBytes_mask (n : Nat) (w : Word) (hn : n ≤ 4) : wordBytes n (w &&& bppMask n) = wordBytes n w := by
  unfold wordBytes
  apply List.map_congr_left
  intro k hk
  simp at hk
  apply BitVec.eq_of_getLsbD_eq
  intro j hj
  simp only [BitVec.getLsbD_extractLsb', BitVec.getLsbD_and]
  rw [bppMask_bit _ _ (by omega)]
  have : 8 * k + j < 8 * n := by omega
  simp [this]

theorem bytesAt_getD (s : State) (a : Word) (n k : Nat) :
    (s.bytesAt a n).getD k 0 = if k < n then s.byteAt (plus a k) else 0 := by
  unfold State.bytesAt
  by_cases h : k < n <;> simp [h]

/-! ### Spans -/

theorem plus_toNat (a : Word) (k : Nat) : (plus a k).toNat = (a.toNat + k) % 2 ^ 32 := by
  simp [plus, BitVec.toNat_add]

/-- The bytes of a span are its base plus 0, 1, ..., mod 2^32 (R62). -/
theorem inSpan_iff (b : Word) (n : Nat) (a : Word) : inSpan b n a = true ↔ ∃ k, k < n ∧ a = plus b k := by
  unfold inSpan
  simp only [decide_eq_true_eq]
  constructor
  · intro h
    refine ⟨(a - b).toNat, h, ?_⟩
    unfold plus
    rw [BitVec.ofNat_toNat, BitVec.setWidth_eq, BitVec.add_comm, BitVec.sub_add_cancel]
  · rintro ⟨k, hk, rfl⟩
    unfold plus
    rw [BitVec.add_comm, BitVec.add_sub_cancel, BitVec.toNat_ofNat]
    exact lt_of_le_of_lt (Nat.mod_le _ _) hk

/-- An index below w * b is a column and a byte of that column. -/
theorem lt_mul_iff_split (w b j : Nat) : (j < w * b) ↔ ∃ x k, x < w ∧ k < b ∧ j = x * b + k := by
  constructor
  · intro h
    have hb : 0 < b := by
      rcases Nat.eq_zero_or_pos b with rfl | h'
      · simp at h
      · exact h'
    refine ⟨j / b, j % b, ?_, Nat.mod_lt _ hb, ?_⟩
    · rw [Nat.div_lt_iff_lt_mul hb]; exact h
    · rw [Nat.mul_comm]; exact (Nat.div_add_mod j b).symm
  · rintro ⟨x, k, hx, hk, rfl⟩
    have : (x + 1) * b ≤ w * b := Nat.mul_le_mul_right b hx
    rw [Nat.add_mul] at this
    omega

/-! ### LUT -/

/-- The entry LUTWR writes, and every other (R152). -/
theorem setLut_lutEntry (s : State) (c : Channel) (k : BitVec 8) (v : BitVec 16) (d : Channel) (j : BitVec 8) :
    (s.setLut c k v).lutEntry d j = if (d, j) = (c, k) then v else s.lutEntry d j := by
  unfold State.setLut State.lutEntry
  simp only [Vector.get_eq_getElem, Vector.getElem_set, Prod.mk.injEq]
  by_cases hd : d = c
  · subst hd
    simp only [if_true, Vector.getElem_set, BitVec.val_toFin, true_and]
    by_cases hj : j = k
    · subst hj; simp
    · have : ¬ k.toNat = j.toNat := fun h => hj (BitVec.eq_of_toNat_eq h.symm)
      simp [hj, this]
  · have : ¬ (Channel.toFin c).val = (Channel.toFin d).val := by
      intro h
      apply hd
      cases c <;> cases d <;> first | rfl | (exfalso; revert h; decide)
    simp [this, hd]

end Sys2Proof.Machine
end

