-- ==== Sys2Proof/Laws/Decode.lean ====
section
/-! SUPPORT. What the decoder can answer, said once: the fields of a word determine the command, and only the fields a
command uses may be nonzero. -/

namespace Sys2Proof

@[simp] theorem ofCode_code (c : Channel) : Channel.ofCode c.code = c := by cases c <;> decide

@[simp] theorem code_ofCode (b : BitVec 2) : (Channel.ofCode b).code = b := by revert b; decide

theorem opcode_lt (i : Instr) : i.opcode < 16 := by cases i <;> simp [Instr.opcode]

theorem decodePlain_ok {w : Word} {i j : Instr} :
    decodePlain w i = .ok j ↔ chField w = 0 ∧ idxField w = 0 ∧ i = j := by
  unfold decodePlain
  by_cases h1 : chField w = 0#2 <;> by_cases h2 : idxField w = 0#8 <;> simp [h1, h2]

theorem decodeChannel_ok {w : Word} {f : Channel → Instr} {j : Instr} :
    decodeChannel w f = .ok j ↔ idxField w = 0 ∧ f (Channel.ofCode (chField w)) = j := by
  unfold decodeChannel
  by_cases h2 : idxField w = 0#8 <;> simp [h2]

theorem decodeIndexed_ok {w : Word} {f : Channel → BitVec 8 → Instr} {j : Instr} :
    decodeIndexed w f = .ok j ↔ f (Channel.ofCode (chField w)) (idxField w) = j := by
  unfold decodeIndexed
  simp

theorem ofCode_eq_iff (b : BitVec 2) (c : Channel) : Channel.ofCode b = c ↔ b = c.code := by
  constructor
  · rintro rfl; simp
  · rintro rfl; simp

theorem decodeOp_ok {w : Word} {op : Nat} {i : Instr} :
    decodeOp w op = .ok i ↔ op = i.opcode ∧ chField w = i.chBits ∧ idxField w = i.idxBits := by
  by_cases h : op < 16
  · interval_cases op <;> simp only [decodeOp, decodePlain_ok, decodeChannel_ok, decodeIndexed_ok] <;>
      cases i <;> simp [Instr.opcode, Instr.chBits, Instr.idxBits, ofCode_eq_iff, and_comm]
  · have hne : op ≠ i.opcode := fun he => h (he ▸ opcode_lt i)
    have : decodeOp w op = .error .reservedOp := by
      unfold decodeOp
      split <;> first | omega | rfl
    simp [this, hne]

/-- The decoder gives command i exactly when each field of the word is the field of i (R91 to R94). -/
theorem decode_ok_iff (w : Word) (i : Instr) :
    decode w = .ok i ↔
      rsvField w = 0 ∧ (opField w).toNat = i.opcode ∧ chField w = i.chBits ∧ idxField w = i.idxBits := by
  unfold decode
  by_cases hr : rsvField w = 0#14
  · simp [hr, decodeOp_ok]
  · simp [hr]

end Sys2Proof
end

