-- ==== Sys2Proof/Laws/Events.lean ====
section
/-! SUPPORT. What engine work does to memory, whatever the port meets (races, overlaps, unanswered accesses): its
events, replayed, give the memory it leaves, and it writes only where it may. -/

namespace Sys2Proof.Machine

theorem replay_append (e1 e2 : List MemEvent) (m : List Host.Cell) :
    replay (e1 ++ e2) m = replay e2 (replay e1 m) := by
  induction e1 generalizing m with
  | nil => rfl
  | cons e r ih => cases e <;> exact ih _

/-- A byte that no event writes reads as before. -/
theorem read_replay_other (evs : List MemEvent) (m : List Host.Cell) (a : Word)
    (h : ∀ v, MemEvent.write a v ∉ evs) : Memory.read (replay evs m) a.toNat = Memory.read m a.toNat := by
  induction evs generalizing m with
  | nil => rfl
  | cons e r ih =>
    cases e with
    | read b v => exact ih m (fun v hv => h v (by simp [hv]))
    | write b v =>
      rw [replay, ih _ (fun v hv => h v (by simp [hv])), read_write_other]
      intro hb
      have : b = a := BitVec.eq_of_toNat_eq hb
      exact h v (by simp [this])

/-- Engine work takes s to t, its new events replayed give t's memory, and it writes only bytes with W. -/
def Logged (W : Word → Prop) (s t : State) : Prop :=
  Works s t ∧
    ∃ evs, t.trace = evs.reverse ++ s.trace ∧ t.mem = replay evs s.mem ∧ ∀ a v, MemEvent.write a v ∈ evs → W a

theorem logged_refl (W : Word → Prop) (s : State) : Logged W s s := ⟨works_refl s, [], rfl, rfl, by simp⟩

theorem logged_trans {W : Word → Prop} {s t u : State} (h1 : Logged W s t) (h2 : Logged W t u) : Logged W s u := by
  obtain ⟨w1, e1, a1, b1, c1⟩ := h1
  obtain ⟨w2, e2, a2, b2, c2⟩ := h2
  refine ⟨works_trans w1 w2, e1 ++ e2, ?_, ?_, ?_⟩
  · rw [a2, a1]; simp
  · rw [b2, b1, replay_append]
  · intro a v h
    rcases List.mem_append.1 h with h | h
    · exact c1 a v h
    · exact c2 a v h

/-- Work that makes no access. -/
theorem logged_of_works {W : Word → Prop} {s t : State} (h : Works s t) (h1 : t.trace = s.trace)
    (h2 : t.mem = s.mem) : Logged W s t :=
  ⟨h, [], by simp [h1], by simp [h2, replay], by simp⟩

theorem logged_mono {W V : Word → Prop} (h : ∀ a, W a → V a) {s t : State} (g : Logged W s t) : Logged V s t := by
  obtain ⟨w, e, a, b, c⟩ := g
  exact ⟨w, e, a, b, fun x v hx => h x (c x v hx)⟩

/-- A piece of work from s: it ends with nothing newly unanswered, or at an access that MEM_ADMIT refuses (R72). -/
def Run.Logs {α : Type} (W : Word → Prop) (s : State) (r : Run α) : Prop :=
  match r with
  | .ok _ t => Logged W s t ∧ t.waiting = s.waiting
  | .hung t => Logged W s t ∧ ∃ a, t.waiting = some a ∧ s.admits a = false

theorem logs_trans {α : Type} {W : Word → Prop} {s t : State} {r : Run α} (h : Logged W s t)
    (hw : t.waiting = s.waiting) (hr : r.Logs W t) : r.Logs W s := by
  cases r with
  | ok a u => exact ⟨logged_trans h hr.1, hr.2.trans hw⟩
  | hung u =>
    obtain ⟨g, a, h1, h2⟩ := hr
    exact ⟨logged_trans h g, a, h1, by rw [← works_admits h.1]; exact h2⟩

theorem logs_bind {α β : Type} {W : Word → Prop} {s : State} {r : Run α} {f : α → State → Run β}
    (hr : r.Logs W s) (hf : ∀ a t, Logged W s t → (f a t).Logs W t) : (r.bind f).Logs W s := by
  cases r with
  | ok a t => exact logs_trans hr.1 hr.2 (hf a t hr.1)
  | hung t => exact hr

theorem logs_mono {α : Type} {W V : Word → Prop} (h : ∀ a, W a → V a) {s : State} {r : Run α} (g : r.Logs W s) :
    r.Logs V s := by
  cases r with
  | ok a t => exact ⟨logged_mono h g.1, g.2⟩
  | hung t => exact ⟨logged_mono h g.1, g.2⟩

theorem portRead_logs (free : Overlap) (a : Word) (s : State) : (portRead free a s).Logs (fun _ => False) s := by
  unfold portRead
  split
  · split
    · exact ⟨⟨works_of_eq rfl, [.read a _], rfl, rfl, by simp⟩, rfl⟩
    · split
      · exact ⟨⟨works_of_eq rfl, [.read a _], rfl, rfl, by simp⟩, rfl⟩
      · exact ⟨⟨works_of_eq rfl, [.read a _], rfl, rfl, by simp⟩, rfl⟩
  · next h => exact ⟨⟨works_of_eq rfl, [], rfl, rfl, by simp⟩, a, rfl, by simpa using h⟩

theorem portWrite_logs (free : Overlap) (a : Word) (v : Byte) (s : State) :
    (portWrite free a v s).Logs (fun b => b = a) s := by
  unfold portWrite
  split
  · split
    · exact ⟨⟨works_of_eq rfl, [.write a _], rfl, rfl, by simp⟩, rfl⟩
    · split
      · exact ⟨⟨works_of_eq rfl, [.write a _], rfl, rfl, by simp⟩, rfl⟩
      · exact ⟨⟨works_of_eq rfl, [.write a _], rfl, rfl, by simp⟩, rfl⟩
  · next h => exact ⟨⟨works_of_eq rfl, [], rfl, rfl, by simp⟩, a, rfl, by simpa using h⟩

/-- A run of reads writes nothing, whatever it meets. -/
theorem readBytes_logs (free : Overlap) (W : Word → Prop) (n : Nat) (a : Word) (s : State) :
    (readBytes free n a s).Logs W s := by
  induction n generalizing a s with
  | zero => exact ⟨logged_refl _ s, rfl⟩
  | succ n ih =>
    exact logs_bind (logs_mono (fun _ h => h.elim) (portRead_logs free a s)) fun b t _ =>
      logs_bind (ih _ _) fun bs u _ => ⟨logged_refl _ u, rfl⟩

/-- A run of writes writes the bytes from its first address on and no other, whatever it meets. -/
theorem writeBytes_logs (free : Overlap) (bs : List Byte) (a : Word) (s : State) :
    (writeBytes free a bs s).Logs (fun b => ∃ k, k < bs.length ∧ b = plus a k) s := by
  induction bs generalizing a s with
  | nil => exact ⟨logged_refl _ s, rfl⟩
  | cons v bs ih =>
    refine logs_bind (logs_mono ?_ (portWrite_logs free a v s)) fun b t _ => logs_mono ?_ (ih _ _)
    · rintro b rfl
      exact ⟨0, by simp, (plus_zero _).symm⟩
    · rintro b ⟨k, hk, rfl⟩
      exact ⟨k + 1, by simp; omega, plus_succ _ _⟩

theorem forEach_logs {α : Type} {W : Word → Prop} {s0 : State} {f : α → State → Run Unit} (l : List α)
    (hf : ∀ a ∈ l, ∀ s, Works s0 s → (f a s).Logs W s) (s : State) (hs : Works s0 s) :
    (forEach f l s).Logs W s := by
  induction l generalizing s with
  | nil => exact ⟨logged_refl _ s, rfl⟩
  | cons a rest ih =>
    exact logs_bind (hf a (by simp) s hs) fun _ t ht =>
      ih (fun b hb => hf b (by simp [hb])) t (works_trans hs ht.1)

/-- A free choice is the first candidate or one of the others (R77). -/
theorem freeChoice_mem (n : Nat) (v : Byte) (vs : List Byte) : Config.freeChoice n v vs ∈ v :: vs := by
  unfold Config.freeChoice
  have : (Config.freeWord n).toNat % (vs.length + 1) < (v :: vs).length := Nat.mod_lt _ (Nat.succ_pos _)
  rw [List.getD_eq_getElem _ _ this]
  exact List.getElem_mem _

/-! ### Steps and runs -/

theorem step_empty {s : State} (h : s.agenda = []) : step s = engineTurn s := by
  unfold step
  rw [h]

theorem step_turn {s : State} {x : Turn} {rest : List Turn} (h : s.agenda = x :: rest) :
    step s = takeTurn x { s with agenda := rest } := by
  unfold step
  rw [h]

/-- An engine with an unanswered access makes no step (R72, R195). -/
theorem engineTurn_waiting {s : State} (hw : s.waiting ≠ none) : engineTurn s = .next s := by
  unfold engineTurn
  cases hh : s.waiting with
  | none => exact absurd hh hw
  | some a => cases s.eng <;> rfl

/-- A run of k + 1 steps is a step and a run of k. -/
theorem run_succ (M : Host.Core) (k : Nat) (s t : M.State) (h : M.step s = .next t) : M.run (k + 1) s = M.run k t := by
  simp only [Host.Core.run, h]

end Sys2Proof.Machine
end

