-- ==== Sys2Proof/Laws/PerInstr.lean ====
section
/-! SUPPORT. The per-command family: the word of every command is a legal one (30_encoding.md R93, R94). -/

namespace Sys2Proof.Laws

/-- `LegalCmd` holds of the word of i: some row of the match-and-mask table accepts it. -/
def EncodesLegal.Statement (i : Instr) : Prop := legalCmd (encode i) = true

theorem EncodesLegal.nop : EncodesLegal.Statement .nop := rfl

theorem EncodesLegal.validate : EncodesLegal.Statement .validate := rfl

theorem EncodesLegal.decode : EncodesLegal.Statement .decode := rfl

theorem EncodesLegal.encode : EncodesLegal.Statement .encode := rfl

theorem EncodesLegal.extract (c : Channel) : EncodesLegal.Statement (.extract c) := by cases c <;> rfl

theorem EncodesLegal.pack (c : Channel) : EncodesLegal.Statement (.pack c) := by cases c <;> rfl

theorem EncodesLegal.extw : EncodesLegal.Statement .extw := rfl

theorem EncodesLegal.packw : EncodesLegal.Statement .packw := rfl

theorem EncodesLegal.addr : EncodesLegal.Statement .addr := rfl

theorem EncodesLegal.rdpix : EncodesLegal.Statement .rdpix := rfl

theorem EncodesLegal.wrpix : EncodesLegal.Statement .wrpix := rfl

theorem EncodesLegal.ramp : EncodesLegal.Statement .ramp := rfl

/-- A row accepts a word that has the row's fixed bits. -/
theorem legalCmd_of_row {w : Word} (r : OpcodeRow) (hr : r ∈ opcodeRows) (h : w &&& r.mask = r.pattern) :
    legalCmd w = true := by
  unfold legalCmd
  rw [List.any_eq_true]
  exact ⟨r, hr, by simp [OpcodeRow.accepts, h]⟩

/-- The bits of a command with CH and IDX that neither field holds are those of its OP (R91). -/
theorem fixedBits (op : Word) (c : BitVec 2) (i : BitVec 8) (hop : op &&& 0xFFFC00FF#32 = op) :
    (op ||| (c.setWidth 32 <<< 8) ||| (i.setWidth 32 <<< 10)) &&& 0xFFFC00FF#32 = op := by
  have e : (op ||| (c.setWidth 32 <<< 8) ||| (i.setWidth 32 <<< 10)) &&& 0xFFFC00FF#32 = op &&& 0xFFFC00FF#32 := by
    apply BitVec.eq_of_getLsbD_eq
    intro j hj
    simp only [BitVec.getLsbD_and, BitVec.getLsbD_or, BitVec.getLsbD_shiftLeft, BitVec.getLsbD_setWidth]
    interval_cases j <;> simp
  rw [e, hop]

theorem EncodesLegal.lutwr (c : Channel) (i : BitVec 8) : EncodesLegal.Statement (.lutwr c i) :=
  legalCmd_of_row ⟨"LUTWR", 0x0000000C#32, 0xFFFC00FF#32⟩ (by decide) (fixedBits 0x0000000C#32 c.code i (by decide))

theorem EncodesLegal.lutrd (c : Channel) (i : BitVec 8) : EncodesLegal.Statement (.lutrd c i) :=
  legalCmd_of_row ⟨"LUTRD", 0x0000000D#32, 0xFFFC00FF#32⟩ (by decide) (fixedBits 0x0000000D#32 c.code i (by decide))

theorem EncodesLegal.todev : EncodesLegal.Statement .todev := rfl

theorem EncodesLegal.fromdev : EncodesLegal.Statement .fromdev := rfl

end Sys2Proof.Laws
end

