-- ==== Sys2Proof/Tests/Slice0.lean ====
section
/-! SUPPORT. Tests against the spec's own vectors (spec/95_test_vectors.md, named in each comment), and for every
statement with hypotheses a concrete state that meets them. -/

namespace Sys2Proof.Tests

open Sys2Proof Sys2Proof.Machine

/-- The state of a next outcome; used on outcomes that are one. -/
def after (o : Host.Outcome State Fault Refusal) : State :=
  match o with
  | .next s => s
  | .fault _ => State.reset
  | .refused _ => State.reset

/-- The reset machine with turns on the agenda. -/
def withTurns (ts : List Turn) (s : State) : State := { s with agenda := ts }

/-- The format "565" of 95_test_vectors.md. -/
def s565 : State :=
  { State.reset with fmt := 0x22#32, descR := 0x50B#32, descG := 0x605#32, descB := 0x500#32 }

/-- 4-byte true-color pixels with all four channels, as V3.22 and V3.28. -/
def s8888 : State :=
  { State.reset with fmt := 0x24#32, descR := 0x810#32, descG := 0x808#32, descB := 0x800#32, descA := 0x818#32 }

/-- The machine that has just accepted the word w. -/
def running (w : Word) : State := State.reset.accept w

/-! ### The word check refuses ill-formed words, one for each of its reasons (V7.6 to V7.10) -/

theorem test_refuses_reserved_op : legalCmd 0x00000010#32 = false ∧ decode 0x00000010#32 = .error .reservedOp := by
  decide

theorem test_refuses_top_op : legalCmd 0x000000FF#32 = false ∧ decode 0x000000FF#32 = .error .reservedOp := by decide

theorem test_refuses_rsv : legalCmd 0x00040000#32 = false ∧ decode 0x00040000#32 = .error .reservedBits := by decide

theorem test_refuses_rsv_top : legalCmd 0x80000003#32 = false ∧ decode 0x80000003#32 = .error .reservedBits := by
  decide

theorem test_refuses_unused_ch : legalCmd 0x00000102#32 = false ∧ decode 0x00000102#32 = .error .unusedChannel := by
  decide

theorem test_refuses_unused_idx : legalCmd 0x00000404#32 = false ∧ decode 0x00000404#32 = .error .unusedIndex := by
  decide

/-! ### Every command's word, written out from R93 and R96 -/

theorem test_word_nop : decodeTableWord 32 0x00000000 = some .nop := by decide

theorem test_word_validate : decodeTableWord 32 0x00000001 = some .validate := by decide

theorem test_word_decode : decodeTableWord 32 0x00000002 = some .decode := by decide

theorem test_word_encode : decodeTableWord 32 0x00000003 = some .encode := by decide

theorem test_word_extract : decodeTableWord 32 0x00000104 = some (.extract .green) ∧
    decodeTableWord 32 0x00000304 = some (.extract .alpha) := by decide

theorem test_word_pack : decodeTableWord 32 0x00000205 = some (.pack .blue) ∧
    decodeTableWord 32 0x00000005 = some (.pack .red) := by decide

theorem test_word_extw : decodeTableWord 32 0x00000006 = some .extw := by decide

theorem test_word_packw : decodeTableWord 32 0x00000007 = some .packw := by decide

theorem test_word_addr : decodeTableWord 32 0x00000008 = some .addr := by decide

theorem test_word_rdpix : decodeTableWord 32 0x00000009 = some .rdpix := by decide

theorem test_word_wrpix : decodeTableWord 32 0x0000000A = some .wrpix := by decide

theorem test_word_ramp : decodeTableWord 32 0x0000000B = some .ramp := by decide

theorem test_word_lutwr : decodeTableWord 32 0x0003FF0C = some (.lutwr .alpha 255) ∧
    decodeTableWord 32 0x00001C0C = some (.lutwr .red 7) := by decide

theorem test_word_lutrd : decodeTableWord 32 0x0000000D = some (.lutrd .red 0) ∧
    decodeTableWord 32 0x0000810D = some (.lutrd .green 32) := by decide

theorem test_word_todev : decodeTableWord 32 0x0000000E = some .todev := by decide

theorem test_word_fromdev : decodeTableWord 32 0x0000000F = some .fromdev := by decide

/-! ### One step of each command -/

/-- V6.2: NOP from reset ends with STATUS = 2. -/
theorem test_nop : (after (step (State.reset.withFetchWord 32 0x00))).status = 0x02#32 := by decide

/-- V6.11, V6.12. -/
theorem test_validate_ok : (after (exec .validate s565)).status = 0x02#32 := by decide

theorem test_validate_width9 : (after (exec .validate { s565 with descG := 0x905#32 })).status = 0x22#32 := by decide

/-- V2.14: 2-byte samples, and the order of the reads. -/
theorem test_decode : (after (exec .decode
    { State.reset with
      maxval := 1000#32, maddr := 0x100#32,
      mem := [(0x100, 0x03), (0x101, 0xE8), (0x102, 0x01), (0x103, 0xF4)] })).pix = 0x00FF7F00#32 := by decide

/-- V2.16: the address wraps. -/
theorem test_decode_wraps : (after (exec .decode
    { State.reset with
      maxval := 255#32, maddr := 0xFFFFFFFE#32, mem := [(0, 3), (0xFFFFFFFE, 1), (0xFFFFFFFF, 2)] })).pix =
    0x00010203#32 := by decide

/-- V2.18: alpha is not written and the address wraps. -/
theorem test_encode : (after (exec .encode
    { State.reset with pix := 0x00FF8000#32, maddr := 0xFFFFFFFF#32 })).mem = [(0, 0x80), (0xFFFFFFFF, 0xFF)] := by
  decide

/-- V3.21, V3.7: EXTRACT sees the whole word, and a field cut at bit 31 is not left-justified. -/
theorem test_extract : (after (exec (.extract .green)
    { State.reset with fmt := 0x21#32, descG := 0x808#32, dword := 0x1234#32 })).res = 0x12#32 := by decide

theorem test_extract_cut : (after (exec (.extract .red)
    { State.reset with fmt := 0x24#32, descR := 0x81C#32, dword := 0xFFFFFFFF#32 })).res = 0x0F#32 := by decide

/-- V3.9, V3.11. -/
theorem test_pack : (after (exec (.pack .green) { s565 with pix := 0x00FF8000#32 })).res = 0x400#32 := by decide

theorem test_pack_cut : (after (exec (.pack .red)
    { State.reset with fmt := 0x24#32, descR := 0x81C#32, pix := 0x00FF0000#32 })).res = 0xF0000000#32 := by decide

/-- V3.19, V3.22. -/
theorem test_extw_masks : (after (exec .extw { s565 with dword := 0xFFFFFC00#32 })).pix = 0x00F88000#32 := by decide

theorem test_extw_alpha : (after (exec .extw { s8888 with dword := 0x80FF0000#32 })).pix = 0x80FF0000#32 := by decide

/-- V3.16, V3.18. -/
theorem test_packw : (after (exec .packw { s565 with pix := 0x00FF8000#32 })).dword = 0xFC00#32 := by decide

theorem test_packw_unmasked : (after (exec .packw
    { State.reset with fmt := 0x21#32, descR := 0x808#32, pix := 0x00AB0000#32 })).dword = 0xAB00#32 := by decide

/-- V3.24, V3.25. -/
theorem test_addr_exact_sum : (after (exec .addr
    { State.reset with fmt := 0x24#32, devOfs := 0xFFFF#32, xy := 0xFFFF#32 })).res = 0x7FFF8#32 := by decide

theorem test_addr_wraps : (after (exec .addr
    { State.reset with fmt := 0x22#32, devStride := 0xFFFFFFFF#32, xy := 0x00010001#32 })).res = 1#32 := by decide

/-- V3.27 with BPP 3, and program P1's RDPIX. -/
theorem test_rdpix_bytes : (after (exec .rdpix
    { State.reset with fmt := 0x23#32, mem := [(0, 0x11), (1, 0x22), (2, 0x33), (3, 0x44)] })).dword =
    0x332211#32 := by decide

theorem test_rdpix_pix : (after (exec .rdpix
    { s565 with devBase := 0x2000#32, devStride := 8#32, xy := 0x00010001#32, mem := [(0x200B, 0xFC)] })).pix =
    0x00F88000#32 := by decide

/-- V3.29: three bytes are written and the fourth is not. -/
theorem test_wrpix : (after (exec .wrpix
    { s8888 with fmt := 0x23#32, pix := 0xAABBCCDD#32, devBase := 0x2000#32, mem := [(0x2003, 0x5A)] })).mem =
    [(0x2000, 0xDD), (0x2001, 0xCC), (0x2002, 0xBB), (0x2003, 0x5A)] := by decide

/-- V3.31: no read before the write. -/
theorem test_wrpix_no_read : (after (exec .wrpix { s565 with mem := [(0, 0xFF), (1, 0xFF)] })).trace =
    [.write 1 0, .write 0 0] := by decide

/-- V4.6, V4.12. -/
theorem test_ramp : (after (exec .ramp s565)).lutEntry .green 32 = 33287#16 := by decide

theorem test_ramp_kind : (after (exec .ramp { s565 with fmt := 0x32#32 })).status = 0x42#32 := by decide

/-- V4.15: bits 31:16 of LDATA do not reach the entry. -/
theorem test_lutwr : (after (exec (.lutwr .alpha 255) { State.reset with ldata := 0xFFFF#32 })).lutEntry .alpha 255 =
    0xFFFF#16 := by decide

/-- V4.14. -/
theorem test_lutrd : (after (exec (.lutrd .blue 5) (State.reset.setLut .blue 5 0x1234#16))).res = 0x1234#32 := by
  decide

/-- Program P6: the 1x1 raster scenario. -/
theorem test_todev : (after (exec .todev
    { s565 with
      maxval := 255#32, dim := 0x00010001#32, imgBase := 0x1000#32, imgStride := 3#32, devBase := 0x2000#32,
      devStride := 2#32, mem := [(0x1000, 0xFF), (0x1001, 0x80)] })).mem =
    [(0x1000, 0xFF), (0x1001, 0x80), (0x2001, 0xFC)] := by decide

/-- V5.4. -/
theorem test_todev_header : (after (exec .todev { s565 with dim := 0x00010001#32 })).status = 0x12#32 := by decide

/-- V5.6. -/
theorem test_fromdev : (after (exec .fromdev
    { s565 with
      dim := 0x00010002#32, devBase := 0x4000#32, outBase := 0x6000#32, mem := [(0x4001, 0xFC), (0x4002, 0x1F)] })).mem =
    [(0x4001, 0xFC), (0x4002, 0x1F), (0x6000, 0xF8), (0x6001, 0x80), (0x6005, 0xF8)] := by decide

/-- V5.2: an empty raster. -/
theorem test_fromdev_empty : (after (exec .fromdev { s565 with dim := 0x00050000#32 })).trace = [] := by decide

/-! ### The register window -/

/-- V6.5: a write to FMT while BUSY = 1. -/
theorem test_busy_write : (after (step (withTurns [.busWrite 0x0C 4 0x22#32] (running 0)))).status = 0x05#32 := by
  decide

/-- V6.4: ERR and BUSY are read-only. -/
theorem test_status_write :
    (after (step (withTurns [.busWrite 0x04 4 0xFFFFFFFF#32] { State.reset with status := 0x46#32 }))).status =
    0x40#32 := by decide

/-- V6.10: `irq` is a level. -/
theorem test_irq_level :
    (after (step (withTurns [.busWrite 0x08 4 1#32] { State.reset with status := 0x02#32 }))).irq = true := by decide

/-- V6.1: an unmapped offset reads 0. -/
theorem test_unmapped_read : (after (step (withTurns [.busRead 0x80 4] { State.reset with rdata := 9#32 }))).rdata = 0 := by
  decide

/-- R97: `wait` reads STATUS again while BUSY reads 1, and ends once it reads 0. -/
theorem test_wait_repeats :
    (after (step (withTurns (Pseudo.wait 0) (running 0)))).agenda = .engine :: Pseudo.wait 0 := by decide

theorem test_wait_ends : (after (step (withTurns (Pseudo.wait 0) State.reset))).agenda = [] := by decide

/-- R200 and R216: a reset after one byte access of ENCODE leaves the first byte only. -/
theorem test_reset_cuts :
    (after (step (withTurns [.reset 1] { running 0x03#32 with pix := 0x00112233#32 }))).mem = [(0, 0x11)] := by decide

/-! ### Witnesses: a concrete state and operands that meet the hypotheses of each statement -/

theorem witness_DecodeInvertsEncode : (Instr.lutwr .alpha 255).wellFormed = true ∧ Instr.nop.wellFormed = true := by
  decide

theorem witness_EncodeInvertsDecode : decode 0x0003FF0C#32 = .ok (.lutwr .alpha 255) ∧ decode 0#32 = .ok .nop := by
  decide

theorem witness_DecoderAgreesWithTable :
    (⟨"LUTRD", 0x0000000D#32, 0xFFFC00FF#32⟩ : OpcodeRow) ∈ opcodeRows ∧
      (⟨"LUTRD", 0x0000000D#32, 0xFFFC00FF#32⟩ : OpcodeRow).accepts 0x0003FF0D#32 = true ∧
      decode 0x0003FF0D#32 = .ok (.lutrd .alpha 255) := by decide

/-- Two properties of two members are a property of both. -/
theorem forall_two {α : Type} {p : α → Prop} {a b : α} (ha : p a) (hb : p b) : ∀ x ∈ [a, b], p x := by
  intro x hx
  simp only [List.mem_cons, List.not_mem_nil, or_false] at hx
  rcases hx with rfl | rfl
  · exact ha
  · exact hb

/-- One running illegal word for each disjunct, at its smallest value. -/
theorem witness_IllegalWords :
    (∀ w ∈ [0x10#32, 0x00040000#32], (running w).agenda = [] ∧ (running w).eng = .run ∧
      (running w).waiting = none ∧ legalCmd (running w).curCmd = false) ∧
    (∀ w ∈ [0x102#32, 0x404#32], (running w).agenda = [] ∧ (running w).eng = .run ∧
      (running w).waiting = none ∧ legalCmd (running w).curCmd = false) :=
  ⟨forall_two (by decide) (by decide), forall_two (by decide) (by decide)⟩

theorem witness_StepRunsDecodedCommand :
    (running 1).eng = .run ∧ (running 1).waiting = none ∧ decode (running 1).curCmd = .ok .validate ∧
      (running 1).agenda = [] ∧ (withTurns [.engine] (running 1)).agenda = [.engine] := by decide

theorem witness_WriteToCmdAccepts :
    (withTurns [.busWrite 0 4 1#32] State.reset).agenda = [.busWrite State.reset.mmioBase 4 1#32] ∧
      State.reset.mmioBase % 4 = 0 ∧ (withTurns [.busWrite 0 4 1#32] State.reset).busy = false ∧
      decode 1#32 = .ok .validate := by decide

theorem witness_WritesWhileBusy : ∀ r ∈ Reg.all,
    (withTurns [.busWrite r.offset 4 1#32] (running 0)).agenda = [.busWrite ((running 0).mmioBase + r.offset) 4 1#32] ∧
      (running 0).mmioBase % 4 = 0 ∧ (withTurns [.busWrite r.offset 4 1#32] (running 0)).busy = true := by decide

/-- RES, and the first and the last unmapped offset. -/
theorem witness_WritesWhileBusy_ignored : ∀ k ∈ [0x50, 0x58, 0xFC],
    (withTurns [.busWrite k 4 1#32] (running 0)).agenda = [.busWrite ((running 0).mmioBase + k) 4 1#32] ∧
      (k = Reg.offset .res ∨ 0x58 ≤ k) ∧ k < 256 ∧ k % 4 = 0 := by decide

theorem witness_WriteThenReadBack : ∀ r ∈ [Reg.fmt, .ldata],
    State.reset.busy = false ∧ State.reset.mmioBase % 4 = 0 ∧ r ≠ .cmd ∧ r ≠ .status ∧ r ≠ .ctrl ∧ r ≠ .res := by
  decide

theorem witness_StatusWriteClears :
    (withTurns [.busWrite 4 4 6#32] State.reset).agenda = [.busWrite (State.reset.mmioBase + 0x04) 4 6#32] ∧
      State.reset.mmioBase % 4 = 0 := by decide

theorem witness_CtrlWriteMasksInterrupt :
    (withTurns [.busWrite 8 4 0#32] State.reset).agenda = [.busWrite (State.reset.mmioBase + 0x08) 4 0#32] ∧
      State.reset.mmioBase % 4 = 0 := by decide

theorem witness_UnmappedOffsets : ∀ k ∈ [0x58, 0xFC],
    State.reset.mmioBase % 4 = 0 ∧ 0x58 ≤ k ∧ k < 256 ∧ k % 4 = 0 ∧
      (withTurns [.busRead k 4] State.reset).agenda = [.busRead (State.reset.mmioBase + k) 4] ∧
      (withTurns [.busWrite k 4 7#32] State.reset).agenda = [.busWrite (State.reset.mmioBase + k) 4 7#32] := by decide

/-- A halfword access at the first address, a word access at the last. -/
theorem witness_OddAccessesRefused : ∀ p ∈ [(0, 2), (255, 4)],
    State.reset.mmioBase ≤ p.1 ∧ p.1 < State.reset.mmioBase + 256 ∧ (p.2 ≠ 4 ∨ p.1 % 4 ≠ 0) ∧
      (withTurns [.busWrite p.1 p.2 0#32] State.reset).agenda = [.busWrite p.1 p.2 0#32] ∧
      (withTurns [.busRead p.1 p.2] State.reset).agenda = [.busRead p.1 p.2] := by decide

/-- A state whose invariant is a list of decidable facts. -/
theorem inv_of_facts (s : State) (h : Reg.all.all (fun r => s.stored r &&& ~~~ r.fields == 0) = true)
    (h1 : s.busy = true ↔ s.eng = .run) (h2 : s.irq = (s.done && s.ie)) (h3 : s.err.toNat ≤ 4)
    (h4 : s.busy = true → s.done = false ∧ s.err = 0) (h5 : s.waiting ≠ none → s.eng = .run)
    (h6 : s.eng = .run → s.waiting = none → s.trace = []) (h7 : s.races ≠ [] → s.eng = .run)
    (h8 : Memory.wf s.mem = true) : s.Inv :=
  ⟨fun r => by
    have := (List.all_eq_true.1 h) r (by cases r <;> decide)
    simpa using this, h1, h2, h3, h4, h5, h6, h7, h8⟩

/-- PIX read while a command runs, and CMD read while none does. -/
theorem witness_RegisterReads :
    (withTurns [.busRead 0x40 4] (running 0)).Inv ∧
      (withTurns [.busRead 0x40 4] (running 0)).agenda = [.busRead ((running 0).mmioBase + Reg.offset .pix) 4] ∧
      (withTurns [.busRead 0x40 4] (running 0)).busy = true ∧ (running 0).mmioBase % 4 = 0 ∧
      (withTurns [.busRead 0 4] State.reset).Inv ∧
      (withTurns [.busRead 0 4] State.reset).agenda = [.busRead (State.reset.mmioBase + Reg.offset .cmd) 4] ∧
      (withTurns [.busRead 0 4] State.reset).busy = false :=
  ⟨inv_of_facts _ (by decide) (by decide) (by decide) (by decide) (by decide) (by decide) (by decide) (by decide) rfl,
    rfl, by decide, by decide,
    inv_of_facts _ (by decide) (by decide) (by decide) (by decide) (by decide) (by decide) (by decide) (by decide) rfl,
    rfl, by decide⟩

theorem witness_BackToBackCommandDropped :
    State.reset.busy = false ∧ State.reset.mmioBase % 4 = 0 ∧
      (withTurns [.busWrite 0 4 0#32, .busWrite 0 4 1#32] State.reset).agenda =
        [.busWrite State.reset.mmioBase 4 0#32, .busWrite State.reset.mmioBase 4 1#32] := by decide

theorem witness_InterruptOutput :
    exec .nop State.reset = .next State.reset.complete ∧ State.reset.complete.waiting = none ∧
      State.reset.waiting = none ∧ (6#32).getLsbD 1 = true ∧ (0#32).getLsbD 0 = false :=
  ⟨rfl, rfl, rfl, by decide, by decide⟩

/-- One running command for each check: ILLEGAL, FORMAT (ADDR, no format), HEADER (DECODE; TODEV with a format). -/
theorem witness_ErrorPriority :
    ((running 0x10#32).agenda = [] ∧ (running 0x10#32).eng = .run ∧ (running 0x10#32).waiting = none ∧
      legalCmd (running 0x10#32).curCmd = false) ∧
    (decode (running 0x08#32).curCmd = .ok .addr ∧ Instr.addr ∉ [Instr.nop, .decode, .encode] ∧
      (running 0x08#32).bpp ∉ [1, 2, 3, 4]) ∧
    (decode (running 0x02#32).curCmd = .ok .decode ∧ (running 0x02#32).maxv = 0) ∧
    (decode (s565.accept 0x0E#32).curCmd = .ok .todev ∧ (s565.accept 0x0E#32).bpp ∈ [1, 2, 3, 4] ∧
      (s565.accept 0x0E#32).vis ∈ [2, 3, 4, 5] ∧ (s565.accept 0x0E#32).maxv = 0 ∧ s565.formatOk = true) := by decide

/-- KIND, for both indexed visual kinds. -/
theorem witness_ErrorPriority_kind : ∀ f ∈ [0x32#32, 0x52#32],
    decode ((s565.setReg .fmt f).accept 0x0B#32).curCmd = .ok .ramp ∧
      ((s565.setReg .fmt f).accept 0x0B#32).bpp ∈ [1, 2, 3, 4] ∧ ((s565.setReg .fmt f).accept 0x0B#32).vis ∈ [3, 5] ∧
      (s565.setReg .fmt f).formatOk = true :=
  forall_two (by decide) (by decide)

/-- Every width of the format 565 is at most 8, and no two of its fields share a bit. -/
theorem witness_widths_565 : ∀ c, s565.wid c ≤ 8 := by intro c; cases c <;> decide

theorem witness_EveryCommandEnds : State.reset.waiting = none := by decide

theorem witness_ValidateRule :
    (s565.bpp ∈ [1, 2, 3, 4] ∧ s565.vis ∈ [2, 3, 4, 5] ∧ ∀ c, s565.wid c ≤ 8) ∧
      ¬ (State.reset.bpp ∈ [1, 2, 3, 4] ∧ State.reset.vis ∈ [2, 3, 4, 5] ∧ ∀ c, State.reset.wid c ≤ 8) :=
  ⟨⟨by decide, by decide, witness_widths_565⟩, fun h => absurd h.1 (by decide)⟩

/-- MAXVAL 0; and the largest MAXVAL of 1-byte samples, the smallest and the largest of 2-byte samples. -/
theorem witness_DecodeRule :
    State.reset.maxv = 0 ∧
      (∀ m ∈ [255#32, 65535#32], { State.reset with maxval := m }.maxv ≠ 0) ∧
      { State.reset with maxval := 256#32 }.maxv ≠ 0 ∧
      ∀ m, { State.reset with maxval := m }.quiet ∧
        { State.reset with maxval := m }.admitsSpan { State.reset with maxval := m }.maddr
          (if { State.reset with maxval := m }.maxv ≤ 255 then 3 else 6) :=
  ⟨by decide, forall_two (by decide) (by decide), by decide, fun _ => ⟨rfl, fun _ _ => rfl⟩⟩

theorem witness_EncodeRule : State.reset.quiet ∧ State.reset.admitsSpan State.reset.maddr 3 := ⟨rfl, fun _ _ => rfl⟩

/-- The machine whose platform does not answer byte a. -/
def silentAt (a : Word) : State := { State.reset with silent := [⟨a, a⟩] }

/-- The first byte unanswered, and the last. -/
theorem witness_EncodeHangsAtUnansweredByte :
    ((silentAt 0).quiet ∧ (silentAt 0).admitsSpan (silentAt 0).maddr 0 ∧
      (silentAt 0).admits (plus (silentAt 0).maddr 0) = false) ∧
    ((silentAt 2).quiet ∧ (silentAt 2).admitsSpan (silentAt 2).maddr 2 ∧
      (silentAt 2).admits (plus (silentAt 2).maddr 2) = false) := by
  refine ⟨⟨rfl, fun k hk => absurd hk (Nat.not_lt_zero k), by decide⟩, rfl, fun k hk => ?_, by decide⟩
  interval_cases k <;> decide

/-- One legal and one illegal format, for the statements of EXTRACT, PACK, EXTW, PACKW, ADDR, RDPIX, WRPIX. -/
theorem witness_formats : s565.formatOk = true ∧ State.reset.formatOk = false ∧
    { s565 with descB := 0x900#32 }.formatOk = false ∧ { s565 with fmt := 0x25#32 }.formatOk = false ∧
    { s565 with fmt := 0x72#32 }.formatOk = false := by decide

/-- The second byte of a pixel unanswered. -/
theorem witness_RdpixRule_hang :
    { s565 with silent := [⟨1#32, 1#32⟩] }.formatOk = true ∧ { s565 with silent := [⟨1#32, 1#32⟩] }.quiet ∧
      1 < { s565 with silent := [⟨1#32, 1#32⟩] }.bpp ∧
      { s565 with silent := [⟨1#32, 1#32⟩] }.admitsSpan 0#32 1 ∧
      { s565 with silent := [⟨1#32, 1#32⟩] }.devAddr 0 0 = 0#32 ∧
      { s565 with silent := [⟨1#32, 1#32⟩] }.admits (plus 0#32 1) = false := by
  refine ⟨by decide, rfl, by decide, fun k hk => ?_, by decide, by decide⟩
  interval_cases k
  decide

theorem witness_RdpixRule : s565.formatOk = true ∧ s565.quiet ∧
    s565.admitsSpan (s565.devAddr s565.xcoord s565.ycoord) s565.bpp := ⟨by decide, rfl, fun _ _ => rfl⟩

theorem witness_WrpixRule : s8888.formatOk = true ∧ s8888.quiet ∧
    s8888.admitsSpan (s8888.devAddr s8888.xcoord s8888.ycoord) s8888.bpp := ⟨by decide, rfl, fun _ _ => rfl⟩

theorem witness_ChannelRoundTrip : ∀ p ∈ [(31, 1), (24, 8), (0, 0)],
    p.2 ≤ 8 ∧ p.1 ≤ 31 ∧ p.1 + p.2 ≤ 32 := by decide

theorem witness_WordRoundTrip :
    s565.formatOk = true ∧ (∀ c, s565.off c + s565.wid c ≤ 8 * s565.bpp) ∧
      (∀ c d, c ≠ d → s565.off c + s565.wid c ≤ s565.off d ∨ s565.off d + s565.wid d ≤ s565.off c ∨
        s565.wid c = 0 ∨ s565.wid d = 0) := by
  refine ⟨by decide, fun c => by cases c <;> decide, fun c d _ => ?_⟩
  cases c <;> cases d <;> first | contradiction | decide

theorem witness_VisualKindIrrelevant :
    Instr.packw ≠ .ramp ∧ s565.formatOk = true ∧ { s565 with fmt := 0x32#32 }.formatOk = true ∧
      { s565 with fmt := 0x32#32 }.bpp = s565.bpp ∧ exec .packw s565 = .next (after (exec .packw s565)) :=
  ⟨by decide, by decide, by decide, by decide, rfl⟩

theorem witness_RampValues : ∀ p ∈ [(1, 0), (1, 1), (8, 0), (8, 255)],
    1 ≤ p.1 ∧ p.1 ≤ 8 ∧ p.2 < 2 ^ p.1 ∧ p.2 < 256 := by decide

theorem witness_RampValues_absent : s565.wid .alpha = 0 := by decide

theorem witness_RampRule :
    State.reset.formatOk = false ∧
      (∀ f ∈ [0x32#32, 0x52#32], { s565 with fmt := f }.formatOk = true ∧
        ({ s565 with fmt := f }.vis = 3 ∨ { s565 with fmt := f }.vis = 5)) ∧
      (∀ f ∈ [0x22#32, 0x42#32], { s565 with fmt := f }.formatOk = true ∧
        ({ s565 with fmt := f }.vis = 2 ∨ { s565 with fmt := f }.vis = 4)) :=
  ⟨by decide, forall_two (by decide) (by decide), forall_two (by decide) (by decide)⟩

theorem witness_LutwrRule : (Channel.red, (0 : BitVec 8)) ≠ (.alpha, 255) ∧
    (Channel.alpha, (254 : BitVec 8)) ≠ (.alpha, 255) := by decide

theorem witness_LutIsolated_lutrd : Instr.lutrd .red 0 ≠ .ramp ∧ (∀ c k, Instr.lutrd .red 0 ≠ .lutwr c k) ∧
    exec (.lutrd .red 0) s565 = .next (after (exec (.lutrd .red 0) s565)) :=
  ⟨by decide, fun _ _ => Instr.noConfusion, rfl⟩

theorem witness_LutIsolated : Instr.extw ≠ .ramp ∧ (∀ c k, Instr.extw ≠ .lutwr c k ∧ Instr.extw ≠ .lutrd c k) ∧
    exec .extw s565 = .next (after (exec .extw s565)) :=
  ⟨by decide, fun _ _ => ⟨Instr.noConfusion, Instr.noConfusion⟩, rfl⟩

/-- Program P6's pass: one pixel, image and device apart. -/
def oneToDev : State :=
  { s565 with
    maxval := 255#32, dim := 0x00010001#32, imgBase := 0x1000#32, imgStride := 3#32, devBase := 0x2000#32,
    devStride := 2#32 }

/-- One pixel from the device to the output. -/
def oneFromDev : State :=
  { s565 with dim := 0x00010001#32, devBase := 0x2000#32, devStride := 2#32, outBase := 0x6000#32 }

/-- Two spans that do not meet. -/
theorem inSpan_apart {b c : Word} {m n : Nat} (h1 : b.toNat + m ≤ c.toNat) (h2 : c.toNat + n ≤ 2 ^ 32) (a : Word)
    (h : inSpan b m a = true) : inSpan c n a = false := by
  obtain ⟨k, hk, rfl⟩ := (inSpan_iff b m a).1 h
  by_contra hc
  rw [Bool.not_eq_false] at hc
  obtain ⟨j, hj, he⟩ := (inSpan_iff c n _).1 hc
  have := congrArg BitVec.toNat he
  rw [plus_toNat, plus_toNat, Nat.mod_eq_of_lt (by omega), Nat.mod_eq_of_lt (by omega)] at this
  omega

theorem inSpan_apart' {b c : Word} {m n : Nat} (h1 : b.toNat + m ≤ c.toNat) (h2 : c.toNat + n ≤ 2 ^ 32) (a : Word)
    (h : inSpan c n a = true) : inSpan b m a = false := by
  by_contra hc
  rw [Bool.not_eq_false] at hc
  rw [inSpan_apart h1 h2 a hc] at h
  cases h

theorem oneToDev_image (a : Word) : oneToDev.inImage a = inSpan 0x1000#32 3 a := by
  change (inSpan 0x1000#32 3 a || false) = _
  rw [Bool.or_false]

theorem oneToDev_device (a : Word) : oneToDev.inDevice a = inSpan 0x2000#32 2 a := by
  change (inSpan 0x2000#32 2 a || false) = _
  rw [Bool.or_false]

theorem oneFromDev_device (a : Word) : oneFromDev.inDevice a = inSpan 0x2000#32 2 a := by
  change (inSpan 0x2000#32 2 a || false) = _
  rw [Bool.or_false]

theorem witness_TodevRule :
    State.reset.formatOk = false ∧ (s565.formatOk = true ∧ s565.maxv = 0) ∧
      (oneToDev.formatOk = true ∧ oneToDev.maxv ≠ 0 ∧ oneToDev.quiet ∧
        (∀ a, oneToDev.inImage a = true → oneToDev.inDevice a = false) ∧
        (∀ a, oneToDev.inImage a = true ∨ oneToDev.inDevice a = true → oneToDev.admits a = true)) ∧
      0 < oneToDev.width ∧ 0 < oneToDev.height ∧ oneToDev.inDevice 0x2002#32 = false := by
  refine ⟨by decide, by decide, ⟨by decide, by decide, rfl, fun a h => ?_, fun _ _ => rfl⟩, by decide, by decide,
    by decide⟩
  rw [oneToDev_image] at h
  rw [oneToDev_device]
  exact inSpan_apart (by decide) (by decide) a h

/-- The empty raster, for the clause about width or height 0. -/
theorem witness_TodevRule_empty :
    { s565 with maxval := 255#32 }.formatOk = true ∧ { s565 with maxval := 255#32 }.maxv ≠ 0 ∧
      { s565 with maxval := 255#32 }.width = 0 ∧ { s565 with maxval := 255#32 }.quiet ∧
      (∀ a, { s565 with maxval := 255#32 }.inImage a = true → { s565 with maxval := 255#32 }.inDevice a = false) ∧
      (∀ a, { s565 with maxval := 255#32 }.inImage a = true ∨ { s565 with maxval := 255#32 }.inDevice a = true →
        { s565 with maxval := 255#32 }.admits a = true) :=
  ⟨by decide, by decide, by decide, rfl, fun _ _ => rfl, fun _ _ => rfl⟩

/-- The last byte of the only pixel; no later pixel exists. -/
theorem witness_TodevWritesEveryPixel :
    oneToDev.formatOk = true ∧ oneToDev.maxv ≠ 0 ∧ oneToDev.quiet ∧
      (∀ a, oneToDev.inImage a = true → oneToDev.inDevice a = false) ∧
      (∀ a, oneToDev.inImage a = true ∨ oneToDev.inDevice a = true → oneToDev.admits a = true) ∧
      (0 < oneToDev.width ∧ 0 < oneToDev.height ∧ 1 < oneToDev.bpp ∧
        ∀ x' y' k', x' < oneToDev.width → y' < oneToDev.height → k' < oneToDev.bpp → before 0 0 x' y' →
          plus (oneToDev.devAddr x' y') k' ≠ plus (oneToDev.devAddr 0 0) 1) := by
  obtain ⟨-, -, ⟨h1, h2, h3, h4, h5⟩, h6, h7, -⟩ := witness_TodevRule
  refine ⟨h1, h2, h3, h4, h5, h6, h7, by decide, fun x' y' k' hx hy _ hb => ?_⟩
  have hx' : x' < 1 := hx
  have hy' : y' < 1 := hy
  rcases hb with hb | ⟨-, hb⟩ <;> omega

theorem witness_FromdevRule :
    State.reset.formatOk = false ∧
      (oneFromDev.formatOk = true ∧ oneFromDev.quiet ∧
        (∀ a, oneFromDev.inDevice a = true → oneFromDev.inOutput a = false) ∧
        (∀ a, oneFromDev.inDevice a = true ∨ oneFromDev.inOutput a = true → oneFromDev.admits a = true)) ∧
      0 < oneFromDev.width ∧ 0 < oneFromDev.height ∧ oneFromDev.inOutput 0x6003#32 = false := by
  refine ⟨by decide, ⟨by decide, rfl, fun a h => ?_, fun _ _ => rfl⟩, by decide, by decide, by decide⟩
  rw [oneFromDev_device] at h
  exact inSpan_apart (b := 0x2000#32) (c := 0x6000#32) (m := 2) (n := 3) (by decide) (by decide) a h

theorem witness_FromdevRule_empty :
    s565.formatOk = true ∧ s565.quiet ∧ s565.width = 0 ∧
      (∀ a, s565.inDevice a = true → s565.inOutput a = false) ∧
      (∀ a, s565.inDevice a = true ∨ s565.inOutput a = true → s565.admits a = true) := by
  refine ⟨by decide, rfl, by decide, fun a h => ?_, fun _ _ => rfl⟩
  have : s565.inDevice a = false := rfl
  rw [this] at h
  cases h

theorem witness_FromdevWritesEveryTriplet :
    oneFromDev.formatOk = true ∧ oneFromDev.quiet ∧
      (∀ a, oneFromDev.inDevice a = true → oneFromDev.inOutput a = false) ∧
      (∀ a, oneFromDev.inDevice a = true ∨ oneFromDev.inOutput a = true → oneFromDev.admits a = true) ∧
      3 * oneFromDev.width * oneFromDev.height ≤ 2 ^ 32 ∧ 0 < oneFromDev.width ∧ 0 < oneFromDev.height := by
  obtain ⟨-, ⟨h1, h2, h3, h4⟩, h5, h6, -⟩ := witness_FromdevRule
  exact ⟨h1, h2, h3, h4, by decide, h5, h6⟩

/-- NOP is outside every list of writers; LUTRD reads and writes no memory and no LUT entry. -/
theorem witness_WhoWritesWhat :
    exec .nop State.reset = .next State.reset.complete ∧
      Instr.nop ∉ [Instr.decode, .extw, .rdpix, .todev, .fromdev] ∧
      Instr.nop ∉ [Instr.packw, .rdpix, .wrpix, .todev, .fromdev] ∧
      (∀ c k, Instr.nop ≠ .extract c ∧ Instr.nop ≠ .pack c ∧ Instr.nop ≠ .lutrd c k) ∧ Instr.nop ≠ .addr ∧
      (∀ c k, Instr.nop ≠ .lutwr c k) ∧ Instr.nop ≠ .ramp ∧
      Instr.nop ∉ [Instr.encode, .wrpix, .todev, .fromdev] ∧
      Instr.nop ∉ [Instr.decode, .encode, .rdpix, .wrpix, .todev, .fromdev] :=
  ⟨rfl, by decide, by decide, fun _ _ => ⟨Instr.noConfusion, Instr.noConfusion, Instr.noConfusion⟩, by decide,
    fun _ _ => Instr.noConfusion, by decide, by decide, by decide⟩

theorem witness_MemoryIsReplayOfEvents : exec .encode s565 = .next (after (exec .encode s565)) := rfl

/-- A hanging ENCODE too, and the byte after the triplet. -/
theorem witness_WritesStayInFootprint :
    exec .encode (silentAt 1) = .next (after (exec .encode (silentAt 1))) ∧
      (silentAt 1).commandWrites .encode 3 = false := ⟨rfl, by decide⟩

/-- In RDPIX, and in TODEV outside its overlap: a byte a host store displaced, and one no store came to. -/
theorem witness_RacesGiveAWritersValue : ∀ free ∈ [noOverlap, oneToDev.todevOverlap],
    { State.reset with races := [(5#32, 1#8)] }.admits 5 = true ∧ free 5 = false ∧
      { State.reset with races := [(5#32, 1#8)] }.displaced 5 = [1#8] ∧ State.reset.displaced 5 = [] :=
  forall_two (by decide) (by decide)

/-- A machine stuck at the second byte of ENCODE, the first written. -/
def halfEncoded : State := after (step { running 3 with silent := [⟨1, 1⟩] })

/-- A store while idle, one while busy, and one onto a byte that a stuck command has written. -/
theorem witness_RacesGiveAWritersValue_stores :
    (withTurns [.memWrite 5 1] State.reset).agenda = [.memWrite 5 1] ∧
      (withTurns [.memWrite 5 1] State.reset).busy = false ∧
      (withTurns [.memWrite 5 1] (running 3)).busy = true ∧
      (∀ w, MemEvent.write 5 w ∉ (withTurns [.memWrite 5 1] (running 3)).trace) ∧
      (withTurns [.memWrite 0 1] halfEncoded).busy = true ∧
      ∃ w, MemEvent.write 0 w ∈ (withTurns [.memWrite 0 1] halfEncoded).trace :=
  ⟨rfl, by decide, by decide, fun _ => List.not_mem_nil, by decide, 0#8, by decide⟩

/-- A pass whose image, device and output are the same bytes. -/
theorem witness_OverlapBytesAreFree :
    { s565 with dim := 0x00010001#32 }.admits 1 = true ∧ { s565 with dim := 0x00010001#32 }.inImage 1 = true ∧
      { s565 with dim := 0x00010001#32 }.inDevice 1 = true ∧ { s565 with dim := 0x00010001#32 }.inOutput 1 = true := by
  decide

/-- Idle; busy, at the last byte ENCODE writes and at the first it does not; and a running illegal word. -/
theorem witness_HostMemoryReads :
    (withTurns [.memRead 5] State.reset).agenda = [.memRead 5] ∧ (withTurns [.memRead 5] State.reset).busy = false ∧
      (∀ a ∈ [2#32, 3#32], (withTurns [.memRead a] (running 3)).agenda = [.memRead a] ∧
        (withTurns [.memRead a] (running 3)).busy = true ∧
        decode (withTurns [.memRead a] (running 3)).curCmd = .ok .encode ∧
        (withTurns [.memRead a] (running 3)).commandWrites .encode a = (a == 2#32)) ∧
      decode (withTurns [.memRead 2] (running 0x10#32)).curCmd = .error .reservedOp :=
  ⟨rfl, by decide, forall_two (by decide) (by decide), by decide⟩

theorem witness_ResetState : ∀ k ∈ [0x58, 0xFC], 0x58 ≤ k ∧ k < 256 ∧ k % 4 = 0 := by decide

/-- An idle machine, a stuck one, and a running one reset before its first access. -/
theorem witness_ResetEvent :
    ((withTurns [.reset 9] State.reset).agenda = [.reset 9] ∧ State.reset.eng = .idle) ∧
      ((withTurns [.reset 9] { running 3 with waiting := some 0 }).agenda = [.reset 9] ∧
        { running 3 with waiting := some 0 }.waiting ≠ none) ∧
      (withTurns [.reset 0] (running 3)).agenda = [.reset 0] := by decide

theorem witness_ResetCutsCommand : ∀ k ∈ [0, 3],
    (withTurns [.reset k] (running 3)).agenda = [.reset k] ∧ (withTurns [.reset k] (running 3)).eng = .run ∧
      (withTurns [.reset k] (running 3)).waiting = none ∧
      decode (withTurns [.reset k] (running 3)).curCmd = .ok .encode ∧
      exec .encode { withTurns [.reset k] (running 3) with agenda := [] } =
        .next (after (exec .encode { withTurns [.reset k] (running 3) with agenda := [] })) :=
  fun _ _ => ⟨rfl, rfl, rfl, (by decide : decode 3#32 = .ok .encode), rfl⟩

/-- A machine stuck at an unanswered access, with each kind of turn next. -/
def stuck (ts : List Turn) : State := withTurns ts { running 3 with waiting := some 0, silent := [⟨0, 0⟩] }

theorem witness_StuckUntilReset :
    ((stuck []).Inv ∧ (stuck []).waiting ≠ none ∧ (stuck []).agenda = []) ∧
      ((stuck [.engine]).Inv ∧ (stuck [.engine]).agenda = [.engine] ∧ (∀ k, Turn.engine ≠ .reset k) ∧
        step (stuck [.engine]) = .next (after (step (stuck [.engine])))) ∧
      ((stuck [.reset 0]).Inv ∧ (stuck [.reset 0]).agenda = [.reset 0]) :=
  ⟨⟨inv_of_facts _ (by decide) (by decide) (by decide) (by decide) (by decide) (by decide) (by decide) (by decide) rfl,
      by decide, rfl⟩,
    ⟨inv_of_facts _ (by decide) (by decide) (by decide) (by decide) (by decide) (by decide) (by decide) (by decide) rfl,
      rfl, fun _ => Turn.noConfusion, rfl⟩,
    ⟨inv_of_facts _ (by decide) (by decide) (by decide) (by decide) (by decide) (by decide) (by decide) (by decide) rfl,
      rfl⟩⟩

/-- Each kind of window access, at the first and the last offset, and every other kind of turn. -/
theorem witness_ProperTurnsNeverStop : ∀ x ∈ (withTurns [.busWrite 0xFC 4 1#32, .busRead 0 4, .busPoll 4, .engine,
      .memWrite 5 1, .memRead 5, .reset 2] State.reset).agenda, x.proper State.reset.mmioBase = true := by decide

theorem witness_StepKeepsInvariant :
    (withTurns [.memWrite 0xFFFFFFFF 1] (running 3)).Inv ∧
      step (withTurns [.memWrite 0xFFFFFFFF 1] (running 3)) =
        .next (after (step (withTurns [.memWrite 0xFFFFFFFF 1] (running 3)))) :=
  ⟨inv_of_facts _ (by decide) (by decide) (by decide) (by decide) (by decide) (by decide) (by decide) (by decide) rfl,
    rfl⟩

end Sys2Proof.Tests
end

/-! The byte events of a command (00_scope.md R10, 20_memory.md R69, R71): whatever a command meets at the port, its new
events, replayed, give the memory it leaves, and every write among them is in the command's footprint. -/

namespace Sys2Proof.Machine

/-! ### Addresses of a pass and its regions -/

theorem plus_plus (a : Word) (j k : Nat) : plus (plus a j) k = plus a (j + k) := by
  simp only [plus, BitVec.add_assoc, BitVec.ofNat_add]

/-- A column of the device buffer is bpp bytes wide (R136). -/
theorem devAddr_column (s : State) (x y : Nat) : s.devAddr x y = plus (s.devAddr 0 y) (x * s.bpp) := by
  simp only [State.devAddr, State.addressOf, plus, BitVec.ofNat_add, BitVec.ofNat_toNat, BitVec.setWidth_eq,
    Nat.add_mul, Nat.zero_mul]
  ac_rfl

/-- Output triplets lie one after another from OUT_BASE on (R162). -/
theorem outAddr_eq_plus (s : State) (x y : Nat) : s.outAddr x y = plus s.outBase ((y * s.width + x) * 3) := by
  simp only [State.outAddr, plus, BitVec.ofNat_add, BitVec.ofNat_toNat, BitVec.setWidth_eq]

theorem mem_rasterOrder {w h : Nat} {xy : Nat × Nat} (hxy : xy ∈ rasterOrder w h) : xy.1 < w ∧ xy.2 < h := by
  simp only [rasterOrder, List.mem_flatMap, List.mem_map, List.mem_range] at hxy
  obtain ⟨y, hy, x, hx, rfl⟩ := hxy
  exact ⟨hx, hy⟩

/-- The bytes of a device pixel of the pass are in the pass's device region (R213). -/
theorem inDevice_of_pixel {s : State} {x y k : Nat} (hx : x < s.width) (hy : y < s.height) (hk : k < s.bpp) :
    s.inDevice (plus (s.devAddr x y) k) = true := by
  refine List.any_eq_true.2 ⟨y, List.mem_range.2 hy, (inSpan_iff _ _ _).2 ⟨x * s.bpp + k, ?_, ?_⟩⟩
  · exact (lt_mul_iff_split _ _ _).2 ⟨x, k, hx, hk, rfl⟩
  · rw [devAddr_column, plus_plus]

/-- The bytes of an output triplet of the pass are in the pass's output region (R213). -/
theorem inOutput_of_pixel {s : State} {x y k : Nat} (hx : x < s.width) (hy : y < s.height) (hk : k < 3) :
    s.inOutput (plus (s.outAddr x y) k) = true := by
  have hpixel : y * s.width + x < s.height * s.width := (lt_mul_iff_split _ _ _).2 ⟨y, x, hy, hx, rfl⟩
  refine (inSpan_iff _ _ _).2 ⟨(y * s.width + x) * 3 + k, ?_, ?_⟩
  · rw [Nat.mul_assoc, Nat.mul_comm s.width]
    omega
  · rw [outAddr_eq_plus, plus_plus]

/-! ### What the accesses of one pixel log -/

theorem decodeAt_logs (free : Overlap) (W : Word → Prop) (a : Word) (m : Nat) (s : State) :
    (decodeAt free a m s).Logs W s :=
  logs_bind (readBytes_logs free W _ a s) fun _ t _ => ⟨logged_refl W t, rfl⟩

theorem readDevicePixel_logs (free : Overlap) (W : Word → Prop) (a : Word) (s : State) :
    (readDevicePixel free a s).Logs W s :=
  logs_bind (readBytes_logs free W _ a s) fun _ t _ => ⟨logged_refl W t, rfl⟩

theorem encodeAt_logs (free : Overlap) {W : Word → Prop} {a : Word} (p : Word) (s : State)
    (hW : ∀ k, k < 3 → W (plus a k)) : (encodeAt free a p s).Logs W s := by
  refine logs_mono ?_ (writeBytes_logs free (encodeTriplet p) a s)
  rintro _ ⟨k, hk, rfl⟩
  exact hW k hk

theorem writeDevicePixel_logs (free : Overlap) {W : Word → Prop} {a : Word} (w : Word) (s : State)
    (hW : ∀ k, k < s.bpp → W (plus a k)) : (writeDevicePixel free a w s).Logs W s := by
  refine logs_mono ?_ (writeBytes_logs free (wordBytes s.bpp (w &&& bppMask s.bpp)) a s)
  rintro _ ⟨k, hk, rfl⟩
  exact hW k (by rwa [wordBytes_length] at hk)

/-- One pixel of TODEV writes its device pixel only (R163). -/
theorem todevPixel_logs (free : Overlap) {W : Word → Prop} (xy : Nat × Nat) (s : State)
    (hW : ∀ k, k < s.bpp → W (plus (s.devAddr xy.1 xy.2) k)) : (todevPixel free xy s).Logs W s := by
  have hat : Logged W s (s.atPixel xy) := logged_of_works (works_of_eq rfl) rfl rfl
  refine logs_trans hat rfl (logs_bind (decodeAt_logs free W _ _ _) fun p t ht => ?_)
  have hst : Works s t := works_trans hat.1 ht.1
  refine logs_trans (t := { t with pix := p, dword := t.packWord p })
    (logged_of_works (works_of_eq rfl) rfl rfl) rfl (writeDevicePixel_logs free _ _ ?_)
  rw [works_devAddr hst]
  exact fun k hk => hW k (works_bpp hst ▸ hk)

/-- One pixel of FROMDEV writes its output triplet only (R164). -/
theorem fromdevPixel_logs (free : Overlap) {W : Word → Prop} (xy : Nat × Nat) (s : State)
    (hW : ∀ k, k < 3 → W (plus (s.outAddr xy.1 xy.2) k)) : (fromdevPixel free xy s).Logs W s := by
  have hat : Logged W s (s.atPixel xy) := logged_of_works (works_of_eq rfl) rfl rfl
  refine logs_trans hat rfl (logs_bind (readDevicePixel_logs free W _ _) fun w t ht => ?_)
  have hst : Works s t := works_trans hat.1 ht.1
  refine logs_trans (t := { t with dword := w, pix := t.unpackWord w })
    (logged_of_works (works_of_eq rfl) rfl rfl) rfl (encodeAt_logs free _ _ ?_)
  rwa [works_outAddr hst]

/-! ### What a whole command logs -/

/-- The new byte events of t, replayed, take the memory of s to that of t, and they write only bytes with W. -/
def Replayed (W : Word → Prop) (s t : State) : Prop :=
  ∃ evs, t.trace = evs.reverse ++ s.trace ∧ t.mem = replay evs s.mem ∧ ∀ a v, MemEvent.write a v ∈ evs → W a

/-- A command run from s answers, if any, a state its new byte events account for. -/
def AnswersReplayed (W : Word → Prop) (s : State) (o : Host.Outcome State Fault Refusal) : Prop :=
  ∀ t, o = .next t → Replayed W s t

section
variable {W : Word → Prop} {s : State}

/-- Completion after work that makes no access (R172). -/
theorem answersReplayed_complete {t : State} (htrace : t.trace = s.trace) (hmem : t.mem = s.mem) :
    AnswersReplayed W s (.next t.complete) := by
  rintro _ ⟨⟩
  exact ⟨[], htrace, hmem, by simp⟩

/-- A check comes before every access, and its error touches neither memory nor the port (R166, R187). -/
theorem answersReplayed_checked {c : Bool} {e : CmdError} {o : Host.Outcome State Fault Refusal}
    (ho : c = true → AnswersReplayed W s o) : AnswersReplayed W s (if c then o else .next (s.raise e)) := by
  split
  next hc => exact ho hc
  next =>
    rintro _ ⟨⟩
    exact ⟨[], rfl, rfl, by simp⟩

/-- Work at the port ends in completion or at an unanswered access; both leave its events and its memory (R72). -/
theorem answersReplayed_finish {r : Run Unit} (hr : r.Logs W s) : AnswersReplayed W s r.finish := by
  cases r with
  | ok _ u =>
    rintro _ ⟨⟩
    exact hr.1.2
  | hung u =>
    rintro _ ⟨⟩
    exact hr.1.2

theorem execDecode_answersReplayed : AnswersReplayed W s (execDecode s) :=
  answersReplayed_checked fun _ => answersReplayed_finish <|
    logs_bind (decodeAt_logs _ W _ _ s) fun _ _ _ => ⟨logged_of_works (works_of_eq rfl) rfl rfl, rfl⟩

theorem execRdpix_answersReplayed : AnswersReplayed W s (execRdpix s) :=
  answersReplayed_checked fun _ => answersReplayed_finish <|
    logs_bind (readDevicePixel_logs _ W _ s) fun _ _ _ => ⟨logged_of_works (works_of_eq rfl) rfl rfl, rfl⟩

end

theorem execEncode_answersReplayed (s : State) :
    AnswersReplayed (fun a => s.commandWrites .encode a = true) s (execEncode s) :=
  answersReplayed_finish <| encodeAt_logs _ _ _ fun k hk => (inSpan_iff _ _ _).2 ⟨k, hk, rfl⟩

theorem execWrpix_answersReplayed (s : State) :
    AnswersReplayed (fun a => s.commandWrites .wrpix a = true) s (execWrpix s) :=
  answersReplayed_checked fun hformat => answersReplayed_finish <|
    logs_trans (logged_of_works (works_of_eq rfl) rfl rfl) rfl <|
      writeDevicePixel_logs _ _ _ fun k hk =>
        Bool.and_eq_true_iff.2 ⟨hformat, (inSpan_iff _ _ _).2 ⟨k, hk, rfl⟩⟩

theorem execTodev_answersReplayed (s : State) :
    AnswersReplayed (fun a => s.commandWrites .todev a = true) s (execTodev s) := by
  refine answersReplayed_checked fun hformat => answersReplayed_checked fun hheader => answersReplayed_finish ?_
  refine logs_bind (forEach_logs (s0 := s) _ ?_ s (works_refl s)) fun _ _ _ =>
    ⟨logged_of_works (works_of_eq rfl) rfl rfl, rfl⟩
  intro xy hxy t ht
  obtain ⟨hx, hy⟩ := mem_rasterOrder hxy
  refine todevPixel_logs _ xy t fun k hk => ?_
  rw [works_devAddr ht]
  simp [State.commandWrites, hformat, hheader, inDevice_of_pixel hx hy (works_bpp ht ▸ hk)]

theorem execFromdev_answersReplayed (s : State) :
    AnswersReplayed (fun a => s.commandWrites .fromdev a = true) s (execFromdev s) := by
  refine answersReplayed_checked fun hformat => answersReplayed_finish ?_
  refine logs_bind (forEach_logs (s0 := s) _ ?_ s (works_refl s)) fun _ _ _ =>
    ⟨logged_of_works (works_of_eq rfl) rfl rfl, rfl⟩
  intro xy hxy t ht
  obtain ⟨hx, hy⟩ := mem_rasterOrder hxy
  refine fromdevPixel_logs _ xy t fun k hk => ?_
  rw [works_outAddr ht]
  simp [State.commandWrites, hformat, inOutput_of_pixel hx hy hk]

/-- Every command's new byte events account for the memory it leaves, and write only bytes of its footprint (R69). -/
theorem exec_answersReplayed (i : Instr) (s : State) :
    AnswersReplayed (fun a => s.commandWrites i a = true) s (exec i s) := by
  cases i with
  | decode => exact execDecode_answersReplayed
  | encode => exact execEncode_answersReplayed s
  | rdpix => exact execRdpix_answersReplayed
  | wrpix => exact execWrpix_answersReplayed s
  | todev => exact execTodev_answersReplayed s
  | fromdev => exact execFromdev_answersReplayed s
  | nop | lutwr _ _ | lutrd _ _ => exact answersReplayed_complete rfl rfl
  | ramp => exact answersReplayed_checked fun _ => answersReplayed_checked fun _ => answersReplayed_complete rfl rfl
  | validate | extract _ | pack _ | extw | packw | addr =>
    exact answersReplayed_checked fun _ => answersReplayed_complete rfl rfl

/-- Settles O49: the events of `exec_answersReplayed`, whose footprint the statement does not ask for. -/
theorem memoryIsReplayOfEvents : Obligations.MemoryIsReplayOfEvents := by
  intro i s t hexec
  obtain ⟨evs, htrace, hmem, _⟩ := exec_answersReplayed i s t hexec
  exact ⟨evs, htrace, hmem⟩

end Sys2Proof.Machine

/-! The machine state (10_state.md): what a command, a host access and a reset may change, that no proper turn stops the
machine, and that every step keeps the invariant. -/

namespace Sys2Proof.Machine

/-! ### The byte port and the data registers -/

/-- PIX and DWORD, the registers a pixel passes through, are the same in both states. -/
def SamePixel (s t : State) : Prop := t.pix = s.pix ∧ t.dword = s.dword

theorem samePixel_trans {s t u : State} (h1 : SamePixel s t) (h2 : SamePixel t u) : SamePixel s u :=
  ⟨h2.1.trans h1.1, h2.2.trans h1.2⟩

theorem ends_mono {α : Type} {P Q : State → Prop} {r : Run α} (hPQ : ∀ t, P t → Q t) (h : r.Ends P) :
    r.Ends Q := by
  cases r <;> exact hPQ _ h

theorem ends_and {α : Type} {P Q : State → Prop} {r : Run α} (hP : r.Ends P) (hQ : r.Ends Q) :
    r.Ends fun t => P t ∧ Q t := by
  cases r <;> exact ⟨hP, hQ⟩

theorem portRead_samePixel (free : Overlap) (a : Word) (s : State) :
    (portRead free a s).Ends (SamePixel s) := by
  unfold portRead
  split
  · split
    · exact ⟨rfl, rfl⟩
    · split <;> exact ⟨rfl, rfl⟩
  · exact ⟨rfl, rfl⟩

theorem portWrite_samePixel (free : Overlap) (a : Word) (v : Byte) (s : State) :
    (portWrite free a v s).Ends (SamePixel s) := by
  unfold portWrite
  split
  · split
    · exact ⟨rfl, rfl⟩
    · split <;> exact ⟨rfl, rfl⟩
  · exact ⟨rfl, rfl⟩

theorem readBytes_samePixel (free : Overlap) (n : Nat) (a : Word) (s : State) :
    (readBytes free n a s).Ends (SamePixel s) := by
  induction n generalizing a s with
  | zero => exact ⟨rfl, rfl⟩
  | succ n ih =>
    refine ends_bind (portRead_samePixel free a s) fun _ t ht => ?_
    exact ends_bind (ends_mono (fun _ => samePixel_trans ht) (ih (a + 1) t)) fun _ _ hu => hu

theorem writeBytes_samePixel (free : Overlap) (bs : List Byte) (a : Word) (s : State) :
    (writeBytes free a bs s).Ends (SamePixel s) := by
  induction bs generalizing a s with
  | nil => exact ⟨rfl, rfl⟩
  | cons b bs ih =>
    exact ends_bind (portWrite_samePixel free a b s) fun _ t ht =>
      ends_mono (fun _ => samePixel_trans ht) (ih (a + 1) t)

/-- Reading a triplet is engine work that leaves PIX and DWORD to the command (R121). -/
theorem decodeAt_frame (free : Overlap) (a : Word) (m : Nat) (s : State) :
    (decodeAt free a m s).Ends fun t => Works s t ∧ SamePixel s t :=
  ends_and (decodeAt_works free a m s) (ends_bind (readBytes_samePixel free _ a s) fun _ _ h => h)

theorem encodeAt_frame (free : Overlap) (a p : Word) (s : State) :
    (encodeAt free a p s).Ends fun t => Works s t ∧ SamePixel s t :=
  ends_and (encodeAt_works free a p s) (writeBytes_samePixel free _ a s)

theorem readDevicePixel_frame (free : Overlap) (a : Word) (s : State) :
    (readDevicePixel free a s).Ends fun t => Works s t ∧ SamePixel s t :=
  ends_and (readDevicePixel_works free a s) (ends_bind (readBytes_samePixel free _ a s) fun _ _ h => h)

theorem writeDevicePixel_frame (free : Overlap) (a w : Word) (s : State) :
    (writeDevicePixel free a w s).Ends fun t => Works s t ∧ SamePixel s t :=
  ends_and (writeDevicePixel_works free a w s) (writeBytes_samePixel free _ a s)

/-! ### What a command may change -/

/-- u is what command i, run from s, leaves when its work is done, before STATUS says so: the listed commands alone
write PIX, DWORD, RES and the LUT or use the port, and the rest of the machine is as it was (R45, R154). -/
structure CommandLeaves (i : Instr) (s u : State) : Prop where
  works : Works { s with res := u.res, lut := u.lut } u
  pix : i ∉ [Instr.decode, .extw, .rdpix, .todev, .fromdev] → u.pix = s.pix
  dword : i ∉ [Instr.packw, .rdpix, .wrpix, .todev, .fromdev] → u.dword = s.dword
  res : (∀ c k, i ≠ .extract c ∧ i ≠ .pack c ∧ i ≠ .lutrd c k) → i ≠ .addr → u.res = s.res
  lut : (∀ c k, i ≠ .lutwr c k) → i ≠ .ramp → u.lut = s.lut
  port : i ∉ [Instr.decode, .encode, .rdpix, .wrpix, .todev, .fromdev] →
    u.trace = s.trace ∧ u.waiting = s.waiting

theorem commandLeaves_refl (i : Instr) (s : State) : CommandLeaves i s s where
  works := rfl
  pix _ := rfl
  dword _ := rfl
  res _ _ := rfl
  lut _ _ := rfl
  port _ := ⟨rfl, rfl⟩

/-- A command whose only effect is a value in RES. -/
theorem commandLeaves_res {i : Instr} {s : State} (v : Word)
    (hi : (∀ c k, i ≠ .extract c ∧ i ≠ .pack c ∧ i ≠ .lutrd c k) → i = .addr) :
    CommandLeaves i s { s with res := v } where
  works := rfl
  pix _ := rfl
  dword _ := rfl
  res hother haddr := absurd (hi hother) haddr
  lut _ _ := rfl
  port _ := ⟨rfl, rfl⟩

/-- A command whose only effect is on the LUT. -/
theorem commandLeaves_lut {i : Instr} {s : State} (l : Vector (Vector (BitVec 16) 256) 4)
    (hi : (∀ c k, i ≠ .lutwr c k) → i = .ramp) : CommandLeaves i s { s with lut := l } where
  works := rfl
  pix _ := rfl
  dword _ := rfl
  res _ _ := rfl
  lut hother hramp := absurd (hi hother) hramp
  port _ := ⟨rfl, rfl⟩

/-- A command that works at the port leaves RES and the LUT alone. -/
theorem commandLeaves_works {i : Instr} {s u : State} (hu : Works s u)
    (hi : i ∈ [Instr.decode, .encode, .rdpix, .wrpix, .todev, .fromdev])
    (hpix : i ∉ [Instr.decode, .extw, .rdpix, .todev, .fromdev] → u.pix = s.pix)
    (hdword : i ∉ [Instr.packw, .rdpix, .wrpix, .todev, .fromdev] → u.dword = s.dword) :
    CommandLeaves i s u := by
  have hres : u.res = s.res := by rw [hu]
  have hlut : u.lut = s.lut := works_lut hu
  exact ⟨by rw [hres, hlut]; exact hu, hpix, hdword, fun _ _ => hres, fun _ _ => hlut, fun h => absurd hi h⟩

theorem commandLeaves_port {i : Instr} {s u : State}
    (hi : i ∈ [Instr.decode, .encode, .rdpix, .wrpix, .todev, .fromdev]) (hu : Works s u ∧ SamePixel s u) :
    CommandLeaves i s u := by
  obtain ⟨hworks, hpix, hdword⟩ := hu
  exact commandLeaves_works hworks hi (fun _ => hpix) (fun _ => hdword)

theorem commandLeaves_pix {i : Instr} {s u : State} (h : CommandLeaves i s u) (p : Word)
    (hi : i ∈ [Instr.decode, .extw, .rdpix, .todev, .fromdev]) : CommandLeaves i s { u with pix := p } where
  works := works_trans h.works (works_of_eq rfl)
  pix hother := absurd hi hother
  dword := h.dword
  res := h.res
  lut := h.lut
  port := h.port

theorem commandLeaves_dword {i : Instr} {s u : State} (h : CommandLeaves i s u) (w : Word)
    (hi : i ∈ [Instr.packw, .rdpix, .wrpix, .todev, .fromdev]) : CommandLeaves i s { u with dword := w } where
  works := works_trans h.works (works_of_eq rfl)
  pix := h.pix
  dword hother := absurd hi hother
  res := h.res
  lut := h.lut
  port := h.port

/-- The three ways command i, run from s, ends: with an error, completed, or at an access that is never answered
(R172, R187, R72). -/
inductive CommandEnds (i : Instr) (s : State) : State → Prop where
  | raised (e : CmdError) : CommandEnds i s (s.raise e)
  | completed {u : State} (hu : CommandLeaves i s u) (hw : u.waiting = s.waiting) : CommandEnds i s u.complete
  | stuck {t : State} (ht : CommandLeaves i s t) (hw : t.waiting ≠ none) : CommandEnds i s t

/-- However a command ends, its registers are those its work left. -/
theorem commandEnds_leaves {i : Instr} {s t : State} (h : CommandEnds i s t) :
    ∃ u, CommandLeaves i s u ∧ t = { u with status := t.status, eng := t.eng, irq := t.irq, races := t.races } := by
  cases h with
  | raised e => exact ⟨s, commandLeaves_refl i s, rfl⟩
  | completed hu hw => exact ⟨_, hu, rfl⟩
  | stuck ht hw => exact ⟨t, ht, rfl⟩

/-- The outcome is a next state, in which command i, run from s, has ended. -/
def AnswersEnd (i : Instr) (s : State) (o : Host.Outcome State Fault Refusal) : Prop :=
  ∃ t, o = .next t ∧ CommandEnds i s t

section
variable {i : Instr} {s : State}

theorem answersEnd_complete {u : State} (hu : CommandLeaves i s u) (hw : u.waiting = s.waiting) :
    AnswersEnd i s (.next u.complete) := ⟨_, rfl, .completed hu hw⟩

theorem answersEnd_checked {c : Bool} {e : CmdError} {o : Host.Outcome State Fault Refusal}
    (ho : AnswersEnd i s o) : AnswersEnd i s (if c then o else .next (s.raise e)) := by
  split
  next => exact ho
  next => exact ⟨_, rfl, .raised e⟩

/-- Work at the port completes with nothing newly unanswered, or is stuck (R72). -/
theorem answersEnd_finish {r : Run Unit} (hlogs : r.Logs (fun _ => True) s) (hends : r.Ends (CommandLeaves i s)) :
    AnswersEnd i s r.finish := by
  cases r with
  | ok _ u => exact answersEnd_complete hends hlogs.2
  | hung t =>
    obtain ⟨_, a, ha, _⟩ := hlogs
    exact ⟨t, rfl, .stuck hends (by simp [ha])⟩

end

theorem execDecode_ends (s : State) : AnswersEnd .decode s (execDecode s) := by
  refine answersEnd_checked (answersEnd_finish ?_ ?_)
  · exact logs_bind (decodeAt_logs _ _ _ _ s) fun _ _ _ => ⟨logged_of_works (works_of_eq rfl) rfl rfl, rfl⟩
  · have hread : (decodeAt noOverlap s.maddr s.maxv s).Ends (CommandLeaves .decode s) :=
      ends_mono (fun _ => commandLeaves_port (by simp)) (decodeAt_frame _ _ _ s)
    exact ends_bind hread fun p _ ht => commandLeaves_pix ht p (by simp)

theorem execEncode_ends (s : State) : AnswersEnd .encode s (execEncode s) := by
  refine answersEnd_finish (encodeAt_logs _ _ s fun _ _ => trivial) ?_
  exact ends_mono (fun _ => commandLeaves_port (by simp)) (encodeAt_frame _ _ _ s)

theorem execRdpix_ends (s : State) : AnswersEnd .rdpix s (execRdpix s) := by
  refine answersEnd_checked (answersEnd_finish ?_ ?_)
  · exact logs_bind (readDevicePixel_logs _ _ _ s) fun _ _ _ => ⟨logged_of_works (works_of_eq rfl) rfl rfl, rfl⟩
  · have hread : (readDevicePixel noOverlap (s.devAddr s.xcoord s.ycoord) s).Ends (CommandLeaves .rdpix s) :=
      ends_mono (fun _ => commandLeaves_port (by simp)) (readDevicePixel_frame _ _ s)
    exact ends_bind hread fun w t ht =>
      commandLeaves_dword (commandLeaves_pix ht (t.unpackWord w) (by simp)) w (by simp)

theorem execWrpix_ends (s : State) : AnswersEnd .wrpix s (execWrpix s) := by
  have hdword : Works s { s with dword := s.packWord s.pix } := works_of_eq rfl
  refine answersEnd_checked (answersEnd_finish ?_ ?_)
  · exact logs_trans (logged_of_works hdword rfl rfl) rfl (writeDevicePixel_logs _ _ _ fun _ _ => trivial)
  · exact ends_mono (fun _ ht => commandLeaves_works (works_trans hdword ht.1) (by simp) (fun _ => ht.2.1) (by simp))
      (writeDevicePixel_frame _ _ _ _)

/-- A pass does its pixels one after another and then records that it has ended (R160, R163, R164). -/
theorem pass_ends {i : Instr} (s : State) {pixel : Nat × Nat → State → Run Unit}
    (hi : i ∈ [Instr.todev, .fromdev]) (hlogs : ∀ xy t, (pixel xy t).Logs (fun _ => True) t)
    (hworks : ∀ xy t, (pixel xy t).Ends (Works t)) :
    AnswersEnd i s
      ((forEach pixel (rasterOrder s.width s.height) s).bind fun _ t => .ok () t.passDone).finish := by
  have hleaves : ∀ t, Works s t → CommandLeaves i s t := fun t ht => by
    simp only [List.mem_cons, List.not_mem_nil, or_false] at hi
    refine commandLeaves_works ht ?_ ?_ ?_ <;> rcases hi with rfl | rfl <;> simp
  refine answersEnd_finish ?_ (ends_mono hleaves ?_)
  · exact logs_bind (forEach_logs _ (fun xy _ t _ => hlogs xy t) s (works_refl s)) fun _ _ _ =>
      ⟨logged_of_works (works_of_eq rfl) rfl rfl, rfl⟩
  · exact ends_bind (forEach_works hworks _ s) fun _ _ ht => works_trans ht (works_of_eq rfl)

/-- Every command, from every state, ends in one of the three ways, having changed what R45 lets it change. -/
theorem exec_ends (i : Instr) (s : State) : AnswersEnd i s (exec i s) := by
  have hrefl := commandLeaves_refl i s
  cases i with
  | nop => exact answersEnd_complete hrefl rfl
  | validate => exact answersEnd_checked (answersEnd_complete hrefl rfl)
  | decode => exact execDecode_ends s
  | encode => exact execEncode_ends s
  | extract c | pack c => exact answersEnd_checked (answersEnd_complete (commandLeaves_res _ (by simp)) rfl)
  | addr => exact answersEnd_checked (answersEnd_complete (commandLeaves_res _ (by simp)) rfl)
  | lutrd c k => exact answersEnd_complete (commandLeaves_res _ (by simp)) rfl
  | extw => exact answersEnd_checked (answersEnd_complete (commandLeaves_pix hrefl _ (by simp)) rfl)
  | packw => exact answersEnd_checked (answersEnd_complete (commandLeaves_dword hrefl _ (by simp)) rfl)
  | rdpix => exact execRdpix_ends s
  | wrpix => exact execWrpix_ends s
  | ramp =>
    exact answersEnd_checked (answersEnd_checked (answersEnd_complete (commandLeaves_lut _ (by simp)) rfl))
  | lutwr c k => exact answersEnd_complete (commandLeaves_lut _ (by simp)) rfl
  | todev =>
    exact answersEnd_checked (answersEnd_checked (pass_ends s (by simp)
      (fun xy t => todevPixel_logs _ xy t fun _ _ => trivial) (todevPixel_works _)))
  | fromdev =>
    exact answersEnd_checked (pass_ends s (by simp)
      (fun xy t => fromdevPixel_logs _ xy t fun _ _ => trivial) (fromdevPixel_works _))

/-- The state a command leaves is one of its three ends. -/
theorem commandEnds_of_exec {i : Instr} {s t : State} (h : exec i s = .next t) : CommandEnds i s t := by
  obtain ⟨u, hu, hends⟩ := exec_ends i s
  rw [h] at hu
  cases hu
  exact hends

theorem replay_of_no_writes {evs : List MemEvent} (m : List Host.Cell)
    (h : ∀ a v, MemEvent.write a v ∉ evs) : replay evs m = m := by
  induction evs with
  | nil => rfl
  | cons e rest ih =>
    have hrest := ih fun a v hv => h a v (List.mem_cons_of_mem e hv)
    cases e with
    | read a v => exact hrest
    | write a v => exact absurd List.mem_cons_self (h a v)

/-- A command that writes no byte leaves memory as it is: the list of bytes, not only each byte (R69). -/
theorem exec_mem_of_no_writes {i : Instr} {s t : State} (hexec : exec i s = .next t)
    (hi : ∀ a, s.commandWrites i a = false) : t.mem = s.mem := by
  obtain ⟨evs, _, hmem, hwrites⟩ := exec_answersReplayed i s t hexec
  rw [hmem]
  refine replay_of_no_writes s.mem fun a v hav => ?_
  simpa [hi a] using hwrites a v hav

theorem commandWrites_eq_false {i : Instr} (s : State) (a : Word)
    (hi : i ∉ [Instr.encode, .wrpix, .todev, .fromdev]) : s.commandWrites i a = false := by
  cases i with
  | encode | wrpix | todev | fromdev => simp at hi
  | nop | validate | decode | extract _ | pack _ | extw | packw | addr => rfl
  | rdpix | ramp | lutwr _ _ | lutrd _ _ => rfl

/-- Settles O48: the registers are those the command's work left, and memory is the replay of its events. -/
theorem whoWritesWhat : Obligations.WhoWritesWhat := by
  intro i s t hexec
  obtain ⟨u, hu, ht⟩ := commandEnds_leaves (commandEnds_of_exec hexec)
  have hmem : i ∉ [Instr.encode, .wrpix, .todev, .fromdev] → t.mem = s.mem := fun hi =>
    exec_mem_of_no_writes hexec fun a => commandWrites_eq_false s a hi
  have hconfig := hu.works
  rw [ht] at hmem ⊢
  refine ⟨hu.pix, hu.dword, hu.res, hu.lut, hmem, hu.port, ?_⟩
  rw [hconfig]
  simp

/-! ### The engine's turn -/

/-- The engine's turn always gives a next state: it rests, refuses an illegal word, or runs a command to its end
(R173, R194, R195). -/
theorem engineTurn_cases (s : State) :
    engineTurn s = .next s ∨
      (s.eng = .run ∧ s.waiting = none ∧
        (engineTurn s = .next (s.raise .illegal) ∨
          ∃ i t, engineTurn s = .next t ∧ exec i s = .next t)) := by
  unfold engineTurn
  split
  next => exact .inl rfl
  next => exact .inl rfl
  next hrun hwaiting =>
    refine .inr ⟨hrun, hwaiting, ?_⟩
    split
    next i _ =>
      obtain ⟨t, ht, _⟩ := exec_ends i s
      exact .inr ⟨i, t, ht, ht⟩
    next => exact .inl rfl

/-- Where the register window stands and which turns are left are the same in both states (log 5, log 13). -/
def SameSchedule (s t : State) : Prop := t.mmioBase = s.mmioBase ∧ t.agenda = s.agenda

theorem commandEnds_sameSchedule {i : Instr} {s t : State} (h : CommandEnds i s t) : SameSchedule s t := by
  obtain ⟨u, hu, ht⟩ := commandEnds_leaves h
  rw [ht]
  unfold SameSchedule
  rw [hu.works]
  exact ⟨rfl, rfl⟩

theorem engineTurn_next (s : State) : ∃ t, engineTurn s = .next t ∧ SameSchedule s t := by
  rcases engineTurn_cases s with h | ⟨_, _, h | ⟨i, t, h, hexec⟩⟩
  · exact ⟨s, h, rfl, rfl⟩
  · exact ⟨_, h, rfl, rfl⟩
  · exact ⟨t, h, commandEnds_sameSchedule (commandEnds_of_exec hexec)⟩

/-! ### The register window -/

/-- Memory and the model's own records are no registers (R60, log 9, log 11, log 12, log 13). -/
theorem stored_outside (s : State) (r : Reg) (a : List Turn) (d : Word) (f : Nat) (m : List Host.Cell)
    (rs : List (Word × Byte)) :
    ({ s with agenda := a, rdata := d, fresh := f, mem := m, races := rs } : State).stored r = s.stored r := by
  cases r <;> rfl

/-! Storing a configuration or data register touches STATUS, CTRL and everything outside the bank not at all. -/

@[simp] theorem setReg_status (s : State) (r : Reg) (v : Word) : (s.setReg r v).status = s.status := by
  cases r <;> rfl
@[simp] theorem setReg_ctrl (s : State) (r : Reg) (v : Word) : (s.setReg r v).ctrl = s.ctrl := by
  cases r <;> rfl
@[simp] theorem setReg_lut (s : State) (r : Reg) (v : Word) : (s.setReg r v).lut = s.lut := by
  cases r <;> rfl
@[simp] theorem setReg_eng (s : State) (r : Reg) (v : Word) : (s.setReg r v).eng = s.eng := by
  cases r <;> rfl
@[simp] theorem setReg_irq (s : State) (r : Reg) (v : Word) : (s.setReg r v).irq = s.irq := by
  cases r <;> rfl
@[simp] theorem setReg_mem (s : State) (r : Reg) (v : Word) : (s.setReg r v).mem = s.mem := by
  cases r <;> rfl
@[simp] theorem setReg_mmioBase (s : State) (r : Reg) (v : Word) : (s.setReg r v).mmioBase = s.mmioBase := by
  cases r <;> rfl
@[simp] theorem setReg_agenda (s : State) (r : Reg) (v : Word) : (s.setReg r v).agenda = s.agenda := by
  cases r <;> rfl
@[simp] theorem setReg_waiting (s : State) (r : Reg) (v : Word) : (s.setReg r v).waiting = s.waiting := by
  cases r <;> rfl
@[simp] theorem setReg_trace (s : State) (r : Reg) (v : Word) : (s.setReg r v).trace = s.trace := by
  cases r <;> rfl
@[simp] theorem setReg_races (s : State) (r : Reg) (v : Word) : (s.setReg r v).races = s.races := by
  cases r <;> rfl
@[simp] theorem setReg_fresh (s : State) (r : Reg) (v : Word) : (s.setReg r v).fresh = s.fresh := by
  cases r <;> rfl

@[simp] theorem setReg_busy (s : State) (r : Reg) (v : Word) : (s.setReg r v).busy = s.busy := by
  simp [State.busy]
@[simp] theorem setReg_done (s : State) (r : Reg) (v : Word) : (s.setReg r v).done = s.done := by
  simp [State.done]
@[simp] theorem setReg_err (s : State) (r : Reg) (v : Word) : (s.setReg r v).err = s.err := by
  simp [State.err]
@[simp] theorem setReg_ie (s : State) (r : Reg) (v : Word) : (s.setReg r v).ie = s.ie := by
  simp [State.ie]

/-- A register that a host write stores into: configuration or data, RES excepted (R43, R46). -/
def Reg.storable (r : Reg) : Prop := r ≠ .cmd ∧ r ≠ .status ∧ r ≠ .ctrl ∧ r ≠ .res

/-- A write to a storable register stores it, or is dropped while BUSY = 1 (R46, R171). -/
theorem writeReg_storable {s : State} {r : Reg} (v : Word) (hr : r.storable) :
    s.writeReg r v = if s.busy then s.overrun else s.setReg r v := by
  obtain ⟨hcmd, hstatus, hctrl, hres⟩ := hr
  cases r with
  | cmd | status | ctrl | res => contradiction
  | _ => rfl

/-- Everything a host write to a register can do (R26, R27, R43, R46, R170, R171). -/
theorem writeReg_cases (s : State) (r : Reg) (v : Word) :
    s.writeReg r v = s ∨ s.writeReg r v = s.acknowledge v ∨ s.writeReg r v = s.writeCtrl v ∨
      s.writeReg r v = s.overrun ∨ (s.busy = false ∧ s.writeReg r v = s.accept v) ∨
      (r.storable ∧ s.writeReg r v = s.setReg r v) := by
  by_cases hr : r.storable
  · rw [writeReg_storable v hr]
    cases s.busy <;> simp [hr]
  · by_cases hcmd : r = .cmd
    · subst hcmd
      cases hb : s.busy <;> simp [State.writeReg, hb]
    · have hrest : r = .status ∨ r = .ctrl ∨ r = .res := by
        unfold Reg.storable at hr
        tauto
      rcases hrest with rfl | rfl | rfl <;> simp [State.writeReg]

theorem volatile_iff (r : Reg) : r.volatile = true ↔ r = .pix ∨ r = .dword ∨ r = .res := by
  cases r <;> simp [Reg.volatile]

/-- A read that no running command can disturb returns the register's fields (R47). -/
theorem readTo_steady {s : State} {r : Reg} (h : s.busy = false ∨ r.volatile = false) :
    s.readTo r = { s with rdata := s.readReg r } := by
  rcases h with h | h <;> simp [State.readTo, h]

/-- A read of a register the running command may be changing is any value (R47, log 11). -/
theorem readTo_volatile {s : State} {r : Reg} (hb : s.busy = true) (hr : r.volatile = true) :
    s.readTo r = { s with rdata := Config.freeWord s.fresh, fresh := s.fresh + 1 } := by
  simp [State.readTo, hb, hr]

/-- While reserved bits are 0 a register reads as the word it stores (R24, R47). -/
theorem readReg_of_reserved {s : State} {r : Reg} (h : s.stored r &&& ~~~r.fields = 0) :
    s.readReg r = s.stored r := by
  apply BitVec.eq_of_getLsbD_eq
  intro j hj
  have hbit := congrArg (fun w => BitVec.getLsbD w j) h
  simp only [BitVec.getLsbD_and, BitVec.getLsbD_not, hj, decide_true, Bool.true_and] at hbit
  simp only [State.readReg, BitVec.getLsbD_and]
  revert hbit
  cases (s.stored r).getLsbD j <;> cases r.fields.getLsbD j <;> simp

/-- Settles O9: the write stores the word less its reserved bits, and the read masks it once more. -/
theorem writeThenReadBack : Obligations.WriteThenReadBack := by
  intro s r v hbusy hbase hcmd hstatus hctrl hres
  have hwrite : hostWrite (s.mmioBase + r.offset) 4 v s = .next (s.setReg r v) := by
    rw [hostWrite_reg r v hbase, writeReg_storable v ⟨hcmd, hstatus, hctrl, hres⟩, hbusy]
    rfl
  have hread : hostRead ((s.setReg r v).mmioBase + r.offset) 4 (s.setReg r v) =
      .next { s.setReg r v with rdata := (s.setReg r v).readReg r } := by
    rw [hostRead_reg r (by simpa using hbase), readTo_steady (.inl (by simpa using hbusy))]
  refine ⟨_, _, hwrite, hread, ?_, fun q hq => ?_, by simp, by simp, by simp, by simp, by simp, by simp⟩
  · simp only [State.readReg, setReg_stored s r v hcmd hstatus hctrl hres, BitVec.and_assoc, BitVec.and_self]
  · exact (stored_outside ..).trans (setReg_stored_other s r q v hq)

/-- Bit j of the two bits a host write to STATUS can clear (R26). -/
theorem statusClear_getLsbD (w v : Word) (j : Nat) :
    (statusClear w v).getLsbD j = (v.getLsbD j && !((j == 1 || j == 2) && w.getLsbD j)) := by
  by_cases hj : j < 32
  · have hmask : (0x06#32).getLsbD j = (j == 1 || j == 2) := by interval_cases j <;> rfl
    simp only [statusClear, BitVec.getLsbD_and, BitVec.getLsbD_not, hj, decide_true, Bool.true_and, hmask]
    rw [Bool.and_comm (w.getLsbD j)]
  · rw [BitVec.getLsbD_of_ge _ _ (by omega), BitVec.getLsbD_of_ge v _ (by omega), Bool.false_and]

/-- Settles O10: a write to STATUS is the acknowledgement, whatever BUSY is. -/
theorem statusWriteClears : Obligations.StatusWriteClears := by
  intro s v rest hagenda hbase
  refine ⟨({ s with agenda := rest } : State).acknowledge v, ?_, rfl, statusClear_getLsbD v s.status,
    acknowledge_irq v _⟩
  rw [step_turn hagenda]
  exact hostWrite_reg .status v hbase

/-- Settles O11: a write to CTRL keeps bit 0 of the word, whatever BUSY is. -/
theorem ctrlWriteMasksInterrupt : Obligations.CtrlWriteMasksInterrupt := by
  intro s v rest hagenda hbase
  refine ⟨({ s with agenda := rest } : State).writeCtrl v, ?_, rfl, fun j => ?_, writeCtrl_irq v _⟩
  · rw [step_turn hagenda]
    exact hostWrite_reg .ctrl v hbase
  · rw [writeCtrl_ctrl, BitVec.getLsbD_and]
    cases j <;> simp [Reg.fields]

/-- Settles O12: no register is found at an unmapped offset. -/
theorem unmappedOffsets : Obligations.UnmappedOffsets := by
  intro s k rest hbase hlow hhigh halign
  refine ⟨fun hagenda => ?_, fun v hagenda => ?_⟩ <;> rw [step_turn hagenda]
  · exact hostRead_unmapped hbase hlow hhigh halign
  · exact hostWrite_unmapped v hbase hlow hhigh halign

/-- An access in the window of another size, or at an odd address, has no offset (R22, U1). -/
theorem busOffset_refused {s : State} {addr size : Nat} (hlow : s.mmioBase ≤ addr)
    (hhigh : addr < s.mmioBase + 256) (hshape : size ≠ 4 ∨ addr % 4 ≠ 0) :
    busOffset s addr size = .error (.inr .hostAccessShape) := by
  unfold busOffset Config.mmioSize
  rw [if_neg (by omega), if_pos (by omega)]

/-- Settles O13: neither kind of access gets an offset. -/
theorem oddAccessesRefused : Obligations.OddAccessesRefused := by
  intro s addr size v rest hlow hhigh hshape
  have hoffset : busOffset { s with agenda := rest } addr size = .error (.inr .hostAccessShape) :=
    busOffset_refused hlow hhigh hshape
  refine ⟨fun hagenda => ?_, fun hagenda => ?_⟩ <;> rw [step_turn hagenda]
  · simp only [takeTurn, hostWrite, hoffset]
  · simp only [takeTurn, hostRead, hoffset]

/-- Settles O14: a steady read gives the stored word, because the invariant keeps reserved bits 0; a volatile one a
free value. -/
theorem registerReads : Obligations.RegisterReads := by
  intro s r rest hinv hagenda hbase
  have hread : step s = .next (({ s with agenda := rest } : State).readTo r) := by
    rw [step_turn hagenda]
    exact hostRead_reg r hbase
  have hstored : ({ s with agenda := rest } : State).readReg r = s.stored r :=
    (congrArg (· &&& r.fields) (stored_outside s r rest ..)).trans
      (readReg_of_reserved (hinv.reserved r))
  by_cases hsteady : s.busy = false ∨ r.volatile = false
  · rw [readTo_steady (s := { s with agenda := rest }) hsteady, hstored] at hread
    refine ⟨_, hread, rfl, fun _ => ⟨rfl, rfl⟩, fun hbusy hr => ?_, fun hr => by rw [hr]; rfl⟩
    rw [← volatile_iff] at hr
    simp [hbusy, hr] at hsteady
  · simp only [not_or, Bool.not_eq_false] at hsteady
    obtain ⟨hbusy, hvolatile⟩ := hsteady
    rw [readTo_volatile (s := { s with agenda := rest }) hbusy hvolatile] at hread
    rw [volatile_iff] at hvolatile
    refine ⟨_, hread, rfl, fun h => ?_, fun _ _ => ⟨rfl, rfl⟩, fun hr => by simp [hr] at hvolatile⟩
    simp only [hbusy, Bool.true_eq_false, false_or] at h
    tauto

/-! ### Proper turns never stop the machine -/

/-- A host access of the proper shape is an aligned 32-bit one, and reaches an offset of the window (R22). -/
theorem busOffset_proper {s : State} {addr size : Nat} (h : (Turn.busRead addr size).proper s.mmioBase = true) :
    size = 4 ∧ ∃ k, busOffset s addr 4 = .ok k := by
  simp only [Turn.proper, Bool.and_eq_true, decide_eq_true_eq, beq_iff_eq] at h
  obtain ⟨⟨⟨⟨hlow, hhigh⟩, hsize⟩, halign⟩, hoffset⟩ := h
  unfold Config.mmioSize at hhigh
  obtain ⟨k, rfl⟩ := Nat.exists_eq_add_of_le hlow
  exact ⟨hsize, k, busOffset_ok (by omega) (by omega) (by omega)⟩

theorem writeReg_sameSchedule (s : State) (r : Reg) (v : Word) : SameSchedule s (s.writeReg r v) := by
  unfold SameSchedule
  rcases writeReg_cases s r v with h | h | h | h | ⟨_, h⟩ | ⟨_, h⟩ <;> simp [h]

theorem hostWrite_of_offset {s : State} {addr k : Nat} (v : Word) (hk : busOffset s addr 4 = .ok k) :
    ∃ t, hostWrite addr 4 v s = .next t ∧ SameSchedule s t := by
  simp only [hostWrite, hk]
  cases Reg.ofOffset k with
  | none => exact ⟨s, rfl, rfl, rfl⟩
  | some r => exact ⟨_, rfl, writeReg_sameSchedule s r v⟩

theorem hostRead_sameSchedule {s t : State} {addr size : Nat} (h : hostRead addr size s = .next t) :
    SameSchedule s t := by
  rw [hostRead_next h]
  exact ⟨rfl, rfl⟩

theorem hostRead_of_offset {s : State} {addr k : Nat} (hk : busOffset s addr 4 = .ok k) :
    ∃ t, hostRead addr 4 s = .next t ∧ SameSchedule s t := by
  have hnext : ∃ t, hostRead addr 4 s = .next t := by
    simp only [hostRead, hk]
    cases Reg.ofOffset k <;> exact ⟨_, rfl⟩
  obtain ⟨t, ht⟩ := hnext
  exact ⟨t, ht, hostRead_sameSchedule ht⟩

/-- Taking turn x leaves the window where it is, and puts nothing on the agenda but the engine's turn and x again
(R97). -/
def TurnTaken (x : Turn) (s t : State) : Prop :=
  t.mmioBase = s.mmioBase ∧ (t.agenda = s.agenda ∨ t.agenda = .engine :: x :: s.agenda)

theorem turnTaken_of_sameSchedule {x : Turn} {s t : State} (h : SameSchedule s t) : TurnTaken x s t :=
  ⟨h.1, .inl h.2⟩

theorem hostPoll_of_offset {s : State} {addr k : Nat} (hk : busOffset s addr 4 = .ok k) :
    ∃ t, hostPoll addr s = .next t ∧ TurnTaken (.busPoll addr) s t := by
  obtain ⟨u, hu, hbase, hagenda⟩ := hostRead_of_offset hk
  refine ⟨u.pollAgain addr, by simp only [hostPoll, hu], ?_, ?_⟩
  · rw [pollAgain_frame]
    exact hbase
  · rw [pollAgain_agenda, hagenda]
    split
    next => exact .inr rfl
    next => exact .inl rfl

/-- A host store moves memory, and while a command runs the record of displaced bytes (R77). -/
theorem hostStore_frame (s : State) (a : Word) (v : Byte) : ∃ b,
    s.hostStore a v = { s with
      mem := Memory.write s.mem a.toNat b, races := (s.hostStore a v).races, fresh := (s.hostStore a v).fresh } ∧
    (s.busy = false → (s.hostStore a v).races = s.races) := by
  unfold State.hostStore
  split
  next hbusy =>
    split
    · exact ⟨_, rfl, by simp [hbusy]⟩
    · exact ⟨_, rfl, by simp [hbusy]⟩
  next => exact ⟨_, rfl, fun _ => rfl⟩

theorem hostStore_sameSchedule (s : State) (a : Word) (v : Byte) : SameSchedule s (s.hostStore a v) := by
  obtain ⟨_, hframe, _⟩ := hostStore_frame s a v
  rw [hframe]
  exact ⟨rfl, rfl⟩

theorem hostLoad_frame (s : State) (a : Word) :
    s.hostLoad a = { s with rdata := (s.hostLoad a).rdata, fresh := (s.hostLoad a).fresh } := by
  unfold State.hostLoad
  split <;> rfl

/-- The command that a reset cuts short has moved memory, its events and the count of free values only (R216). -/
theorem afterAccesses_frame (k : Nat) (s : State) :
    s.afterAccesses k = { s with
      mem := (s.afterAccesses k).mem, trace := (s.afterAccesses k).trace, fresh := (s.afterAccesses k).fresh } := by
  unfold State.afterAccesses
  split <;> rfl

/-- A proper turn gives a next state (R22, R191). -/
theorem takeTurn_proper {x : Turn} {s : State} (h : x.proper s.mmioBase = true) :
    ∃ t, takeTurn x s = .next t ∧ TurnTaken x s t := by
  cases x with
  | engine =>
    obtain ⟨t, ht, hst⟩ := engineTurn_next s
    exact ⟨t, ht, turnTaken_of_sameSchedule hst⟩
  | busWrite addr size v =>
    obtain ⟨rfl, k, hk⟩ := busOffset_proper h
    obtain ⟨t, ht, hst⟩ := hostWrite_of_offset v hk
    exact ⟨t, ht, turnTaken_of_sameSchedule hst⟩
  | busRead addr size =>
    obtain ⟨rfl, k, hk⟩ := busOffset_proper h
    obtain ⟨t, ht, hst⟩ := hostRead_of_offset hk
    exact ⟨t, ht, turnTaken_of_sameSchedule hst⟩
  | busPoll addr =>
    obtain ⟨_, k, hk⟩ := busOffset_proper (size := 4) (by simpa [Turn.proper] using h)
    exact hostPoll_of_offset hk
  | memWrite a v => exact ⟨_, rfl, turnTaken_of_sameSchedule (hostStore_sameSchedule s a v)⟩
  | memRead a =>
    refine ⟨_, rfl, turnTaken_of_sameSchedule ?_⟩
    rw [hostLoad_frame]
    exact ⟨rfl, rfl⟩
  | reset k =>
    refine ⟨_, rfl, turnTaken_of_sameSchedule ?_⟩
    rw [afterAccesses_frame]
    exact ⟨rfl, rfl⟩

/-- Every turn left to take is one the spec gives a meaning to (R22). -/
def State.ProperAgenda (s : State) : Prop := ∀ x ∈ s.agenda, x.proper s.mmioBase = true

/-- With proper turns left, a step gives a next state, and proper turns are left again. -/
theorem step_properAgenda {s : State} (h : s.ProperAgenda) : ∃ t, step s = .next t ∧ t.ProperAgenda := by
  cases hagenda : s.agenda with
  | nil =>
    obtain ⟨t, ht, hbase, hsame⟩ := engineTurn_next s
    refine ⟨t, by rw [step_empty hagenda, ht], ?_⟩
    simp [State.ProperAgenda, hsame, hagenda]
  | cons x rest =>
    simp only [State.ProperAgenda, hagenda, List.mem_cons, forall_eq_or_imp] at h
    obtain ⟨hx, hrest⟩ := h
    obtain ⟨t, ht, hbase, hleft⟩ := takeTurn_proper (s := { s with agenda := rest }) hx
    refine ⟨t, by rw [step_turn hagenda, ht], ?_⟩
    unfold State.ProperAgenda
    rw [hbase]
    rcases hleft with hleft | hleft <;> rw [hleft]
    · exact hrest
    · simp only [List.mem_cons, forall_eq_or_imp]
      exact ⟨rfl, hx, hrest⟩

theorem safeRun_of_properAgenda {s : State} (h : s.ProperAgenda) (k : Nat) : SafeRun k s := by
  induction k generalizing s with
  | zero => rfl
  | succ k ih =>
    obtain ⟨t, hstep, ht⟩ := step_properAgenda h
    unfold SafeRun
    rw [run_succ core k s t hstep]
    exact ih ht

/-- Settles O58: an agenda of proper turns stays one, and such a step never stops. -/
theorem properTurnsNeverStop : Obligations.ProperTurnsNeverStop := fun _ h k => safeRun_of_properAgenda h k

/-! ### The invariant -/

/-- Every reserved bit of the bank is 0 (R24). -/
def State.ReservedClear (s : State) : Prop := ∀ r : Reg, s.stored r &&& ~~~ r.fields = 0

/-- A change of one register keeps reserved bits 0 when its new word has none set. -/
theorem reservedClear_of_one {s t : State} (q : Reg) (hs : s.ReservedClear) (hq : t.stored q &&& ~~~ q.fields = 0)
    (hother : ∀ r, r ≠ q → t.stored r = s.stored r) : t.ReservedClear := by
  intro r
  by_cases hr : r = q
  · rw [hr]
    exact hq
  · rw [hother r hr]
    exact hs r

theorem reservedClear_outside {s : State} {a : List Turn} {d : Word} {f : Nat} {m : List Host.Cell}
    {rs : List (Word × Byte)} (hs : s.ReservedClear) :
    ({ s with agenda := a, rdata := d, fresh := f, mem := m, races := rs } : State).ReservedClear := fun r => by
  rw [stored_outside]
  exact hs r

/-- An operation of the lifecycle writes no register but STATUS, whose reserved bits it leaves 0 (R26, R51). -/
theorem reservedClear_lifecycle {s : State} {w c : Word} {e : Engine} {q : Bool} {p : Option Word}
    {tr : List MemEvent} {rs : List (Word × Byte)} (hs : s.ReservedClear)
    (hw : w &&& 0xFFFFFF08#32 = s.status &&& 0xFFFFFF08#32) :
    ({ s with status := w, curCmd := c, eng := e, irq := q, waiting := p, trace := tr, races := rs } :
      State).ReservedClear :=
  reservedClear_of_one .status hs (hw.trans (hs .status)) fun r hr => by
    cases r with
    | status => exact absurd rfl hr
    | _ => rfl

theorem statusAccept_rest (v : Word) : statusAccept v &&& 0xFFFFFF08#32 = v &&& 0xFFFFFF08#32 := by
  apply BitVec.eq_of_getLsbD_eq
  intro j hj
  interval_cases j <;> simp [statusAccept]

theorem statusOverrun_rest (v : Word) : statusOverrun v &&& 0xFFFFFF08#32 = v &&& 0xFFFFFF08#32 := by
  apply BitVec.eq_of_getLsbD_eq
  intro j hj
  interval_cases j <;> simp [statusOverrun]

theorem statusClear_rest (w v : Word) : statusClear w v &&& 0xFFFFFF08#32 = v &&& 0xFFFFFF08#32 := by
  apply BitVec.eq_of_getLsbD_eq
  intro j hj
  interval_cases j <;> simp [statusClear]

theorem stored_writeCtrl_other (v : Word) (s : State) (r : Reg) (h : r ≠ .ctrl) :
    (s.writeCtrl v).stored r = s.stored r := by
  cases r with
  | ctrl => exact absurd rfl h
  | _ => rfl

theorem masked_reserved (v m : Word) : (v &&& m) &&& ~~~ m = 0 := by
  simp [BitVec.and_assoc]

/-- The registers a command writes have no reserved bits (R39, R40, R43). -/
theorem commandLeaves_reservedClear {i : Instr} {s u : State} (hu : CommandLeaves i s u) (hs : s.ReservedClear) :
    u.ReservedClear := by
  intro r
  have hr := hs r
  cases r with
  | pix | dword | res => simp [Reg.fields]
  | _ =>
    rw [hu.works]
    exact hr

/-- The work of a command leaves STATUS, CTRL, `eng` and `irq` to its completion (R51, R172). -/
theorem commandLeaves_control {i : Instr} {s u : State} (hu : CommandLeaves i s u) :
    u.status = s.status ∧ u.ctrl = s.ctrl ∧ u.eng = s.eng ∧ u.irq = s.irq := by
  rw [hu.works]
  exact ⟨rfl, rfl, rfl, rfl⟩

/-- A machine whose engine is IDLE, with nothing left of a command, meets the invariant. -/
theorem inv_idle {t : State} (hreserved : t.ReservedClear) (hbusy : t.busy = false) (heng : t.eng = .idle)
    (hirq : t.irq = (t.done && t.ie)) (herr : t.err.toNat ≤ 4) (hwaiting : t.waiting = none)
    (hraces : t.races = []) (hmem : Memory.wf t.mem = true) : t.Inv where
  reserved := hreserved
  busyRun := by simp [hbusy, heng]
  irqLevel := hirq
  errLegal := herr
  busyClean := by simp [hbusy]
  waitingRun := by simp [hwaiting]
  runFresh := by simp [heng]
  racesRun := by simp [hraces]
  memCanonical := hmem

theorem inv_complete {u : State} (hreserved : u.ReservedClear) (herr : u.err.toNat ≤ 4) (hwaiting : u.waiting = none)
    (hmem : Memory.wf u.mem = true) : u.complete.Inv :=
  inv_idle (reservedClear_lifecycle (s := u) hreserved (statusComplete_rest _)) (complete_busy u) rfl rfl
    (by rwa [complete_err]) hwaiting rfl hmem

theorem code_le_four (e : CmdError) : e.code.toNat ≤ 4 := by cases e <;> decide

theorem inv_raise (e : CmdError) {s : State} (hs : s.Inv) (hwaiting : s.waiting = none) : (s.raise e).Inv :=
  inv_idle (reservedClear_lifecycle (s := s) hs.reserved (statusRaise_rest e _)) (raise_busy e s) rfl rfl
    (by rw [raise_err]; exact code_le_four e) hwaiting rfl hs.memCanonical

theorem stored_hardReset (s : State) (r : Reg) : s.hardReset.stored r = 0 := by cases r <;> rfl

theorem inv_hardReset {s : State} (hmem : Memory.wf s.mem = true) : s.hardReset.Inv :=
  inv_idle (fun r => by simp [stored_hardReset]) (by simp [State.busy]) rfl (by simp [State.done])
    (by simp [State.err]) rfl rfl hmem

theorem inv_accept (v : Word) {s : State} (hs : s.Inv) : (s.accept v).Inv where
  reserved := reservedClear_lifecycle (s := s) hs.reserved (statusAccept_rest _)
  busyRun := by simp
  irqLevel := rfl
  errLegal := by simp
  busyClean := by simp
  waitingRun := by simp
  runFresh := by simp
  racesRun := by simp
  memCanonical := hs.memCanonical

/-- From s to t the engine and the records of its command stand still, and an error stays what it was: what a host
access does that is not an accepted command. -/
structure EngineRests (s t : State) : Prop where
  busy : t.busy = s.busy
  done : t.done = true → s.done = true
  err : t.err = s.err
  eng : t.eng = s.eng
  waiting : t.waiting = s.waiting
  trace : t.trace = s.trace

theorem inv_of_engineRests {s t : State} (hs : s.Inv) (h : EngineRests s t) (hreserved : t.ReservedClear)
    (hirq : t.irq = (t.done && t.ie)) (hraces : t.races ≠ [] → t.eng = .run) (hmem : Memory.wf t.mem = true) :
    t.Inv where
  reserved := hreserved
  busyRun := by rw [h.busy, h.eng]; exact hs.busyRun
  irqLevel := hirq
  errLegal := by rw [h.err]; exact hs.errLegal
  busyClean hbusy := by
    obtain ⟨hdone, herr⟩ := hs.busyClean (h.busy ▸ hbusy)
    refine ⟨Bool.eq_false_iff.2 fun hd => ?_, h.err.trans herr⟩
    rw [h.done hd] at hdone
    cases hdone
  waitingRun := by rw [h.waiting, h.eng]; exact hs.waitingRun
  runFresh := by rw [h.eng, h.waiting, h.trace]; exact hs.runFresh
  racesRun := hraces
  memCanonical := hmem

theorem inv_acknowledge (w : Word) {s : State} (hs : s.Inv) : (s.acknowledge w).Inv :=
  inv_of_engineRests hs ⟨acknowledge_busy w s, by simp +contextual, acknowledge_err w s, rfl, rfl, rfl⟩
    (reservedClear_lifecycle (s := s) hs.reserved (statusClear_rest w _)) rfl hs.racesRun hs.memCanonical

theorem inv_overrun {s : State} (hs : s.Inv) : s.overrun.Inv :=
  inv_of_engineRests hs ⟨overrun_busy s, by simp, overrun_err s, rfl, rfl, rfl⟩
    (reservedClear_lifecycle (s := s) hs.reserved (statusOverrun_rest _))
    (by rw [overrun_done]; exact hs.irqLevel) hs.racesRun hs.memCanonical

theorem inv_writeCtrl (v : Word) {s : State} (hs : s.Inv) : (s.writeCtrl v).Inv :=
  inv_of_engineRests hs ⟨rfl, id, rfl, rfl, rfl, rfl⟩
    (reservedClear_of_one .ctrl hs.reserved (masked_reserved v _) (stored_writeCtrl_other v s)) rfl hs.racesRun
    hs.memCanonical

theorem inv_setReg {s : State} {r : Reg} (v : Word) (hr : r.storable) (hs : s.Inv) : (s.setReg r v).Inv := by
  obtain ⟨hcmd, hstatus, hctrl, hres⟩ := hr
  refine inv_of_engineRests hs ⟨by simp, by simp, by simp, by simp, by simp, by simp⟩ ?_ ?_ ?_ ?_
  · refine reservedClear_of_one r hs.reserved ?_ fun q hq => setReg_stored_other s r q v hq
    rw [setReg_stored s r v hcmd hstatus hctrl hres]
    exact masked_reserved v _
  · simpa using hs.irqLevel
  · simpa using hs.racesRun
  · simpa using hs.memCanonical

/-- The invariant speaks of no agenda, no value read and no count of free values. -/
theorem inv_records {s : State} (hs : s.Inv) (a : List Turn) (d : Word) (f : Nat) :
    ({ s with agenda := a, rdata := d, fresh := f } : State).Inv :=
  inv_of_engineRests hs ⟨rfl, id, rfl, rfl, rfl, rfl⟩
    (reservedClear_outside hs.reserved) hs.irqLevel hs.racesRun hs.memCanonical

theorem inv_writeReg {s : State} (r : Reg) (v : Word) (hs : s.Inv) : (s.writeReg r v).Inv := by
  rcases writeReg_cases s r v with h | h | h | h | ⟨_, h⟩ | ⟨hr, h⟩ <;> rw [h]
  · exact hs
  · exact inv_acknowledge v hs
  · exact inv_writeCtrl v hs
  · exact inv_overrun hs
  · exact inv_accept v hs
  · exact inv_setReg v hr hs

theorem inv_hostWrite {addr size : Nat} {v : Word} {s t : State} (hs : s.Inv)
    (h : hostWrite addr size v s = .next t) : t.Inv := by
  rcases hostWrite_next h with rfl | ⟨r, rfl⟩
  · exact hs
  · exact inv_writeReg r v hs

theorem inv_hostRead {addr size : Nat} {s t : State} (hs : s.Inv) (h : hostRead addr size s = .next t) : t.Inv := by
  rw [hostRead_next h]
  exact inv_records hs _ _ _

theorem inv_hostPoll {addr : Nat} {s t : State} (hs : s.Inv) (h : hostPoll addr s = .next t) : t.Inv := by
  obtain ⟨u, hu, rfl⟩ := hostPoll_next h
  rw [pollAgain_frame]
  exact inv_records (inv_hostRead hs hu) _ _ _

theorem inv_hostLoad {s : State} (hs : s.Inv) (a : Word) : (s.hostLoad a).Inv := by
  rw [hostLoad_frame]
  exact inv_records hs _ _ _

theorem inv_hostStore {s : State} (hs : s.Inv) (a : Word) (v : Byte) : (s.hostStore a v).Inv := by
  obtain ⟨b, hframe, hidle⟩ := hostStore_frame s a v
  have hraces : (s.hostStore a v).races ≠ [] → s.eng = .run := fun hne => by
    cases hbusy : s.busy with
    | true => exact hs.busyRun.1 hbusy
    | false => exact hs.racesRun (hidle hbusy ▸ hne)
  rw [hframe]
  exact inv_of_engineRests hs ⟨rfl, id, rfl, rfl, rfl, rfl⟩ (reservedClear_outside hs.reserved)
    hs.irqLevel hraces (wf_write_word _ _ _ hs.memCanonical)

theorem wf_afterAccesses (k : Nat) {s : State} (h : Memory.wf s.mem = true) :
    Memory.wf (s.afterAccesses k).mem = true := by
  unfold State.afterAccesses
  split
  · exact wf_replay _ _ h
  · exact h
  · exact h

/-- A command that leaves an access unanswered has moved only what its work moves (R72, R195). -/
theorem inv_stuck {i : Instr} {s t : State} (hs : s.Inv) (hrun : s.eng = .run) (ht : CommandLeaves i s t)
    (hwaiting : t.waiting ≠ none) (hmem : Memory.wf t.mem = true) : t.Inv := by
  obtain ⟨hstatus, hctrl, heng, hirq⟩ := commandLeaves_control ht
  refine ⟨commandLeaves_reservedClear ht hs.reserved, ?_, ?_, ?_, ?_, fun _ => heng.trans hrun,
    fun _ h => absurd h hwaiting, fun _ => heng.trans hrun, hmem⟩
  · simpa only [State.busy, hstatus, heng] using hs.busyRun
  · simpa only [State.done, State.ie, hstatus, hctrl, hirq] using hs.irqLevel
  · simpa only [State.err, hstatus] using hs.errLegal
  · simpa only [State.busy, State.done, State.err, hstatus] using hs.busyClean

/-- However a command ends, memory is the replay of its events and the rest is one of its three ends. -/
theorem inv_exec {i : Instr} {s t : State} (hs : s.Inv) (hrun : s.eng = .run) (hwaiting : s.waiting = none)
    (h : exec i s = .next t) : t.Inv := by
  have hmem : Memory.wf t.mem = true := by
    obtain ⟨evs, _, hreplay, _⟩ := exec_answersReplayed i s t h
    rw [hreplay]
    exact wf_replay evs _ hs.memCanonical
  cases commandEnds_of_exec h with
  | raised e => exact inv_raise e hs hwaiting
  | completed hu hw =>
    refine inv_complete (commandLeaves_reservedClear hu hs.reserved) ?_ (hw.trans hwaiting) hmem
    obtain ⟨hstatus, _⟩ := commandLeaves_control hu
    simpa only [State.err, hstatus] using hs.errLegal
  | stuck ht hw => exact inv_stuck hs hrun ht hw hmem

theorem inv_engineTurn {s t : State} (hs : s.Inv) (h : engineTurn s = .next t) : t.Inv := by
  rcases engineTurn_cases s with hturn | ⟨hrun, hwaiting, hturn | ⟨i, u, hturn, hexec⟩⟩ <;>
    rw [hturn] at h <;> cases h
  · exact hs
  · exact inv_raise .illegal hs hwaiting
  · exact inv_exec hs hrun hwaiting hexec

/-- Every turn keeps the invariant. -/
theorem inv_takeTurn {x : Turn} {s t : State} (hs : s.Inv) (h : takeTurn x s = .next t) : t.Inv := by
  cases x with
  | engine => exact inv_engineTurn hs h
  | busWrite addr size v => exact inv_hostWrite hs h
  | busRead addr size => exact inv_hostRead hs h
  | busPoll addr => exact inv_hostPoll hs h
  | memWrite a v =>
    cases h
    exact inv_hostStore hs a v
  | memRead a =>
    cases h
    exact inv_hostLoad hs a
  | reset k =>
    cases h
    exact inv_hardReset (wf_afterAccesses k hs.memCanonical)

/-- Settles O60: the engine's own move or a turn, at the state without that turn. -/
theorem stepKeepsInvariant : Obligations.StepKeepsInvariant := by
  intro s t hs hstep
  cases hagenda : s.agenda with
  | nil =>
    rw [step_empty hagenda] at hstep
    exact inv_engineTurn hs hstep
  | cons x rest =>
    rw [step_turn hagenda] at hstep
    exact inv_takeTurn (inv_records hs rest s.rdata s.fresh) hstep

end Sys2Proof.Machine

/-! System memory (20_memory.md): what an access of the engine or of the host leaves at the byte it meets, whether or not
a host store races with it (R77), it lies in the overlap of a pass (R81), or the platform does not answer it (R72). -/

namespace Sys2Proof.Machine

/-! ### The byte port, case by case -/

section
variable {s : State} {free : Overlap} {a : Word}

/-- An answered read in the overlap of a pass (R81). -/
theorem portRead_overlap (ha : s.admits a = true) (hf : free a = true) :
    portRead free a s = .ok (Config.freeByte s.fresh)
      { s with fresh := s.fresh + 1, trace := .read a (Config.freeByte s.fresh) :: s.trace } := by
  unfold portRead
  rw [if_pos ha, if_pos hf]

/-- An answered write in the overlap of a pass (R81). -/
theorem portWrite_overlap (v : Byte) (ha : s.admits a = true) (hf : free a = true) :
    portWrite free a v s = .ok () ({ s with fresh := s.fresh + 1 }.storeByte a (Config.freeByte s.fresh)) := by
  unfold portWrite
  rw [if_pos ha, if_pos hf]

/-- An answered read of a byte that no host store came to; others may have raced elsewhere (R77). -/
theorem portRead_unraced (ha : s.admits a = true) (hf : free a = false) (hd : s.displaced a = []) :
    portRead free a s = .ok (s.byteAt a) { s with trace := .read a (s.byteAt a) :: s.trace } := by
  unfold portRead
  rw [if_pos ha, hf, hd]
  rfl

theorem portWrite_unraced (v : Byte) (ha : s.admits a = true) (hf : free a = false) (hd : s.displaced a = []) :
    portWrite free a v s = .ok () (s.storeByte a v) := by
  unfold portWrite
  rw [if_pos ha, hf, hd]
  rfl

/-- An answered read of a byte that host stores came to returns what one of the writers left (R77). -/
theorem portRead_raced (ha : s.admits a = true) (hf : free a = false) (hd : s.displaced a ≠ []) :
    portRead free a s = .ok (Config.freeChoice s.fresh (s.byteAt a) (s.displaced a))
      { s with
        fresh := s.fresh + 1,
        trace := .read a (Config.freeChoice s.fresh (s.byteAt a) (s.displaced a)) :: s.trace } := by
  unfold portRead
  rw [if_pos ha, hf]
  obtain ⟨d, ds, hcons⟩ := List.exists_cons_of_ne_nil hd
  rw [hcons]
  rfl

/-- An answered write to a byte that host stores came to leaves either writer's value (R77). -/
theorem portWrite_raced (v : Byte) (ha : s.admits a = true) (hf : free a = false) (hd : s.displaced a ≠ []) :
    portWrite free a v s =
      .ok () ({ s with fresh := s.fresh + 1 }.storeByte a (Config.freeChoice s.fresh v [s.byteAt a])) := by
  unfold portWrite
  rw [if_pos ha, hf]
  obtain ⟨d, ds, hcons⟩ := List.exists_cons_of_ne_nil hd
  rw [hcons]
  rfl

/-- Outside the overlap an answered read returns what memory holds or what a host store displaced (R77). -/
theorem portRead_returns_writers_value (ha : s.admits a = true) (hf : free a = false) :
    ∃ b t, portRead free a s = .ok b t ∧ b ∈ s.byteAt a :: s.displaced a ∧ t.mem = s.mem ∧
      (s.displaced a = [] → b = s.byteAt a) := by
  by_cases hd : s.displaced a = []
  · exact ⟨_, _, portRead_unraced ha hf hd, List.mem_cons_self, rfl, fun _ => rfl⟩
  · exact ⟨_, _, portRead_raced ha hf hd, freeChoice_mem _ _ _, rfl, fun h => absurd h hd⟩

end

theorem byteAt_storeByte_same (s : State) (a : Word) (v : Byte) : (s.storeByte a v).byteAt a = v := by
  rw [byteAt_storeByte, if_pos rfl]

theorem byteAt_storeByte_other (s : State) {a b : Word} (v : Byte) (h : b ≠ a) :
    (s.storeByte a v).byteAt b = s.byteAt b := by
  rw [byteAt_storeByte, if_neg h.symm]

theorem freeChoice_pair (n : Nat) (v w : Byte) : Config.freeChoice n v [w] = v ∨ Config.freeChoice n v [w] = w := by
  simpa using freeChoice_mem n v [w]

/-- Outside the overlap an answered write leaves its own value or, after a host store, the value that was there
(R77). -/
theorem portWrite_leaves_writers_value {s : State} {free : Overlap} {a : Word} (v : Byte) (ha : s.admits a = true)
    (hf : free a = false) :
    ∃ t, portWrite free a v s = .ok () t ∧ (t.byteAt a = v ∨ t.byteAt a = s.byteAt a) ∧
      (s.displaced a = [] → t.byteAt a = v) ∧ ∀ b, b ≠ a → t.byteAt b = s.byteAt b := by
  by_cases hd : s.displaced a = []
  · have hstored := byteAt_storeByte_same s a v
    exact ⟨_, portWrite_unraced v ha hf hd, .inl hstored, fun _ => hstored, fun b => byteAt_storeByte_other s v⟩
  · refine ⟨_, portWrite_raced v ha hf hd, ?_, fun h => absurd h hd, fun b => byteAt_storeByte_other _ _⟩
    rw [byteAt_storeByte_same]
    exact freeChoice_pair _ _ _

/-! ### A pass at a byte that is both its source and its destination -/

/-- In the overlap a read returns the next free byte, and a write leaves it (R81). -/
theorem overlap_accesses_are_free {s : State} {free : Overlap} {a : Word} (v : Byte) (ha : s.admits a = true)
    (hf : free a = true) :
    (∃ t, portRead free a s = .ok (Config.freeByte s.fresh) t ∧ t.fresh = s.fresh + 1 ∧ t.mem = s.mem) ∧
    (∃ t, portWrite free a v s = .ok () t ∧ t.fresh = s.fresh + 1 ∧
      t.byteAt a = Config.freeByte s.fresh ∧ ∀ b, b ≠ a → t.byteAt b = s.byteAt b) :=
  ⟨⟨_, portRead_overlap ha hf, rfl, rfl⟩,
    ⟨_, portWrite_overlap v ha hf, rfl, byteAt_storeByte_same _ _ _, fun _ => byteAt_storeByte_other _ _⟩⟩

/-- Settles O52: the overlap of either pass is where its two regions meet. -/
theorem overlapBytesAreFree : Obligations.OverlapBytesAreFree := fun _ _ v ha =>
  ⟨fun himage hdevice => overlap_accesses_are_free v ha (Bool.and_eq_true_iff.2 ⟨hdevice, himage⟩),
    fun hdevice houtput => overlap_accesses_are_free v ha (Bool.and_eq_true_iff.2 ⟨houtput, hdevice⟩)⟩

/-! ### A host read of system memory -/

theorem hostLoad_exact {s : State} {a : Word} (h : s.busy = false ∨ s.runningWrites a = false) :
    s.hostLoad a = { s with rdata := (s.byteAt a).setWidth 32 } := by
  refine if_neg ?_
  rcases h with h | h <;> simp [h]

theorem hostLoad_free {s : State} {a : Word} (hbusy : s.busy = true) (hwrites : s.runningWrites a = true) :
    s.hostLoad a = { s with rdata := (Config.freeByte s.fresh).setWidth 32, fresh := s.fresh + 1 } :=
  if_pos (by simp [hbusy, hwrites])

theorem runningWrites_of_ok {s : State} {i : Instr} (a : Word) (h : decode s.curCmd = .ok i) :
    s.runningWrites a = s.commandWrites i a := by
  simp [State.runningWrites, h]

theorem runningWrites_of_error {s : State} {e : DecodeError} (a : Word) (h : decode s.curCmd = .error e) :
    s.runningWrites a = false := by
  simp [State.runningWrites, h]

/-- What a host read returns depends on BUSY and on whether the running command writes the byte, legal or not (R76,
R207). -/
theorem hostLoad_returns (s : State) (a : Word) :
    (s.busy = false → (s.hostLoad a).rdata = (s.byteAt a).setWidth 32 ∧ (s.hostLoad a).fresh = s.fresh) ∧
    (∀ i, decode s.curCmd = .ok i → s.commandWrites i a = false →
      (s.hostLoad a).rdata = (s.byteAt a).setWidth 32 ∧ (s.hostLoad a).fresh = s.fresh) ∧
    (∀ i, s.busy = true → decode s.curCmd = .ok i → s.commandWrites i a = true →
      (s.hostLoad a).rdata = (Config.freeByte s.fresh).setWidth 32 ∧ (s.hostLoad a).fresh = s.fresh + 1) ∧
    (∀ e, decode s.curCmd = .error e →
      (s.hostLoad a).rdata = (s.byteAt a).setWidth 32 ∧ (s.hostLoad a).fresh = s.fresh) := by
  refine ⟨fun hidle => ?_, fun i hi hapart => ?_, fun i hbusy hi hwrites => ?_, fun e he => ?_⟩
  · rw [hostLoad_exact (.inl hidle)]
    exact ⟨rfl, rfl⟩
  · rw [hostLoad_exact (.inr ((runningWrites_of_ok a hi).trans hapart))]
    exact ⟨rfl, rfl⟩
  · rw [hostLoad_free hbusy ((runningWrites_of_ok a hi).trans hwrites)]
    exact ⟨rfl, rfl⟩
  · rw [hostLoad_exact (.inr (runningWrites_of_error a he))]
    exact ⟨rfl, rfl⟩

/-- Settles O53: the turn is `hostLoad`, taken at the state without that turn. -/
theorem hostMemoryReads : Obligations.HostMemoryReads := by
  intro s a rest hagenda
  have hstep : step s = .next ({ s with agenda := rest }.hostLoad a) := step_turn hagenda
  exact ⟨_, hstep, hostLoad_frame { s with agenda := rest } a, hostLoad_returns { s with agenda := rest } a⟩

/-! ### A host store to system memory -/

theorem engineWrote_iff (s : State) (a : Word) : s.engineWrote a = true ↔ ∃ w, MemEvent.write a w ∈ s.trace := by
  refine List.any_eq_true.trans ⟨?_, ?_⟩
  · rintro ⟨e, he, hwrote⟩
    cases e with
    | read b w => cases hwrote
    | write b w => exact ⟨w, eq_of_beq hwrote ▸ he⟩
  · rintro ⟨w, hw⟩
    exact ⟨_, hw, beq_self_eq_true a⟩

theorem hostStore_idle {s : State} (a : Word) (v : Byte) (h : s.busy = false) :
    s.hostStore a v = { s with mem := Memory.write s.mem a.toNat v } :=
  if_neg (by simp [h])

/-- The running command has not written the byte yet (R77). -/
theorem hostStore_ahead {s : State} {a : Word} (v : Byte) (hbusy : s.busy = true) (h : s.engineWrote a = false) :
    s.hostStore a v =
      { s with mem := Memory.write s.mem a.toNat v, races := (a, s.byteAt a) :: s.races } :=
  (if_pos hbusy).trans (if_neg (by simp [h]))

/-- The running command has already written the byte (R77). -/
theorem hostStore_behind {s : State} {a : Word} (v : Byte) (hbusy : s.busy = true) (h : s.engineWrote a = true) :
    s.hostStore a v =
      { s with
        mem := Memory.write s.mem a.toNat (Config.freeChoice s.fresh v [s.byteAt a]),
        races := (a, s.byteAt a) :: s.races, fresh := s.fresh + 1 } :=
  (if_pos hbusy).trans (if_pos h)

/-- While BUSY the displaced byte is recorded, wherever the command stands (log 9). -/
theorem hostStore_races_busy {s : State} (a : Word) (v : Byte) (hbusy : s.busy = true) :
    (s.hostStore a v).races = (a, s.byteAt a) :: s.races := by
  cases hwrote : s.engineWrote a with
  | false => rw [hostStore_ahead v hbusy hwrote]
  | true => rw [hostStore_behind v hbusy hwrote]

theorem displaced_of_races_cons {s t : State} {a : Word} {d : Byte} (h : t.races = (a, d) :: s.races) (b : Word) :
    t.displaced b = if a = b then d :: s.displaced b else s.displaced b := by
  unfold State.displaced
  rw [h, List.filter_cons]
  by_cases hab : a = b <;> simp [hab]

theorem displaced_of_races_eq {s t : State} (h : t.races = s.races) (b : Word) : t.displaced b = s.displaced b := by
  unfold State.displaced
  rw [h]

/-- A store of the host comes to one byte, and displaces the value of no other (R77, log 19). -/
theorem hostStore_other (s : State) {a b : Word} (v : Byte) (hb : b ≠ a) :
    (s.hostStore a v).byteAt b = s.byteAt b ∧ (s.hostStore a v).displaced b = s.displaced b := by
  obtain ⟨c, hframe, hidle⟩ := hostStore_frame s a v
  constructor
  · rw [hframe]
    exact read_write_other _ _ _ _ fun hab => hb (BitVec.eq_of_toNat_eq hab.symm)
  · cases hbusy : s.busy with
    | false => exact displaced_of_races_eq (hidle hbusy) b
    | true => rw [displaced_of_races_cons (hostStore_races_busy a v hbusy), if_neg hb.symm]

/-- What a store of the host leaves at its byte: its value, or either writer's where the running command has already
written; and, while BUSY, the value displaced (R77). -/
theorem hostStore_leaves_writers_value (s : State) (a : Word) (v : Byte) :
    (s.busy = false →
      (s.hostStore a v).byteAt a = v ∧ (s.hostStore a v).races = s.races ∧ (s.hostStore a v).fresh = s.fresh) ∧
    (s.busy = true → (∀ w, MemEvent.write a w ∉ s.trace) →
      (s.hostStore a v).byteAt a = v ∧ (s.hostStore a v).fresh = s.fresh) ∧
    (s.busy = true → (∃ w, MemEvent.write a w ∈ s.trace) →
      (s.hostStore a v).byteAt a = v ∨ (s.hostStore a v).byteAt a = s.byteAt a) ∧
    (s.busy = true → (s.hostStore a v).displaced a = s.byteAt a :: s.displaced a) := by
  refine ⟨fun hidle => ?_, fun hbusy hahead => ?_, fun hbusy hbehind => ?_, fun hbusy => ?_⟩
  · rw [hostStore_idle a v hidle]
    exact ⟨read_write_same _ _ _, rfl, rfl⟩
  · have hwrote : s.engineWrote a = false := by
      rw [Bool.eq_false_iff, ne_eq, engineWrote_iff]
      exact fun ⟨w, hw⟩ => hahead w hw
    rw [hostStore_ahead v hbusy hwrote]
    exact ⟨read_write_same _ _ _, rfl⟩
  · rw [hostStore_behind v hbusy ((engineWrote_iff s a).2 hbehind)]
    simp only [State.byteAt, read_write_same]
    exact freeChoice_pair _ _ _
  · rw [displaced_of_races_cons (hostStore_races_busy a v hbusy), if_pos rfl]

/-- Settles O51: the two port lemmas, and `hostStore` taken at the state without that turn. -/
theorem racesGiveAWritersValue : Obligations.RacesGiveAWritersValue := by
  refine ⟨fun s free a v ha hf => ?_, fun s a v rest hagenda => ?_⟩
  · exact ⟨portRead_returns_writers_value ha hf, portWrite_leaves_writers_value v ha hf⟩
  · have hstep : step s = .next ({ s with agenda := rest }.hostStore a v) := step_turn hagenda
    obtain ⟨_, hframe, _⟩ := hostStore_frame { s with agenda := rest } a v
    refine ⟨_, hstep, ?_, fun b => hostStore_other { s with agenda := rest } v,
      hostStore_leaves_writers_value { s with agenda := rest } a v⟩
    rw [hframe]

/-! ### Where a command writes, and where it stops -/

/-- Settles O50: no new event of the command writes a byte outside its footprint, and memory is their replay. -/
theorem writesStayInFootprint : Obligations.WritesStayInFootprint := by
  intro i s t a hexec hapart
  obtain ⟨evs, _, hmem, hwrites⟩ := exec_answersReplayed i s t hexec
  unfold State.byteAt
  rw [hmem]
  refine read_replay_other evs s.mem a fun v hv => ?_
  have hinside := hwrites a v hv
  simp [hapart] at hinside

/-- A run of writes whose byte j is the first not answered stores the j bytes before it and waits there (R72). -/
theorem writeBytes_hung {free : Overlap} {bs : List Byte} {a : Word} {s : State} {j : Nat} (hj : j < bs.length)
    (ha : s.admitsSpan a j) (hf : ∀ k, k < j → free (plus a k) = false) (hq : s.quiet)
    (hhang : s.admits (plus a j) = false) :
    writeBytes free a bs s = .hung { s.storeBytes a (bs.take j) with waiting := some (plus a j) } := by
  induction bs generalizing a s j with
  | nil => simp at hj
  | cons b bs ih =>
    unfold writeBytes
    cases j with
    | zero =>
      rw [plus_zero] at hhang ⊢
      rw [portWrite_hung hhang]
      rfl
    | succ j =>
      have hf0 : free a = false := by simpa [plus_zero] using hf 0 (Nat.succ_pos j)
      have hf1 : ∀ k, k < j → free (plus (a + 1) k) = false := fun k hk => by
        rw [plus_succ]
        exact hf (k + 1) (Nat.succ_lt_succ hk)
      rw [portWrite_calm (admitsSpan_head ha) hf0 hq, ← plus_succ]
      rw [← plus_succ] at hhang
      exact ih (s := s.storeByte a b) (Nat.lt_of_succ_lt_succ hj) (admitsSpan_tail ha) hf1 hq hhang

theorem writeEvents_length (a : Word) (bs : List Byte) : (writeEvents a bs).length = bs.length := by
  simp [writeEvents]

/-- Settles O24: ENCODE is a run of three writes, which hangs at its byte j. -/
theorem encodeHangsAtUnansweredByte : Obligations.EncodeHangsAtUnansweredByte := by
  intro s j hq hj ha hhang
  have hlength : ((encodeTriplet s.pix).take j).length = j := List.length_take_of_le (Nat.le_of_lt hj)
  have hexec : exec .encode s = .next
      { s.storeBytes s.maddr ((encodeTriplet s.pix).take j) with waiting := some (plus s.maddr j) } :=
    congrArg Run.finish (writeBytes_hung (free := noOverlap) hj ha (fun _ _ => rfl) hq hhang)
  refine ⟨_, hexec, ?_, ?_, fun k hk => ?_, fun b hb => ?_⟩
  · rw [storeBytes_frame]
  · rw [storeBytes_frame]
    simp [writeEvents_length, hlength, Nat.add_comm]
  · refine (byteAt_storeBytes_at s s.maddr _ k (by rwa [hlength]) (by rw [hlength]; omega)).trans ?_
    simp [List.getElem?_take_of_lt hk]
  · exact byteAt_storeBytes_other s s.maddr b _ fun k hk => (hb k (hlength ▸ hk)).symm

end Sys2Proof.Machine

/-! The command words (30_encoding.md): a word is its four fields, the word of a command has the command's fields, and a
word is legal, for the decoder and for the match-and-mask table, exactly when its fields are those of a command. -/

namespace Sys2Proof

/-! ### A word is its four fields (R91) -/

section
variable (w : Word)

theorem opField_toNat : (opField w).toNat = w.toNat % 256 := by
  simp [opField]

theorem chField_toNat : (chField w).toNat = w.toNat / 256 % 4 := by
  simp [chField, Nat.shiftRight_eq_div_pow]

theorem idxField_toNat : (idxField w).toNat = w.toNat / 1024 % 256 := by
  simp [idxField, Nat.shiftRight_eq_div_pow]

theorem rsvField_toNat : (rsvField w).toNat = w.toNat / 2 ^ 18 := by
  have hw := w.isLt
  simp only [rsvField, BitVec.extractLsb'_toNat, Nat.shiftRight_eq_div_pow]
  omega

theorem chField_eq_zero_iff : chField w = 0 ↔ w.toNat / 256 % 4 = 0 := by
  rw [← chField_toNat, BitVec.toNat_eq]
  rfl

theorem idxField_eq_zero_iff : idxField w = 0 ↔ w.toNat / 1024 % 256 = 0 := by
  rw [← idxField_toNat, BitVec.toNat_eq]
  rfl

theorem rsvField_eq_zero_iff : rsvField w = 0 ↔ w.toNat / 2 ^ 18 = 0 := by
  rw [← rsvField_toNat, BitVec.toNat_eq]
  rfl

end

theorem eq_of_fields_eq {w v : Word} (hop : opField w = opField v) (hch : chField w = chField v)
    (hidx : idxField w = idxField v) (hrsv : rsvField w = rsvField v) : w = v := by
  rw [BitVec.toNat_eq, opField_toNat, opField_toNat] at hop
  rw [BitVec.toNat_eq, chField_toNat, chField_toNat] at hch
  rw [BitVec.toNat_eq, idxField_toNat, idxField_toNat] at hidx
  rw [BitVec.toNat_eq, rsvField_toNat, rsvField_toNat] at hrsv
  apply BitVec.eq_of_toNat_eq
  omega

/-! ### The word of a command -/

theorem or_shiftLeft_eq_add {b n : Nat} (hb : b < 2 ^ n) (a : Nat) : b ||| a <<< n = b + 2 ^ n * a := by
  rw [Nat.or_comm, ← Nat.shiftLeft_add_eq_or_of_lt hb, Nat.shiftLeft_eq, Nat.mul_comm, Nat.add_comm]

/-- The fields of a command do not overlap: the OR of R96 is a sum. -/
theorem encode_toNat (i : Instr) :
    (encode i).toNat = i.opcode + 2 ^ 8 * i.chBits.toNat + 2 ^ 10 * i.idxBits.toNat := by
  have hop := opcode_lt i
  have hch := i.chBits.isLt
  have hidx := i.idxBits.isLt
  calc (encode i).toNat = i.opcode ||| i.chBits.toNat <<< 8 ||| i.idxBits.toNat <<< 10 := by
        simp only [encode, BitVec.toNat_or, BitVec.toNat_shiftLeft, BitVec.toNat_setWidth, BitVec.toNat_ofNat,
          Nat.shiftLeft_eq]
        congr 2 <;> omega
    _ = _ := by
        rw [or_shiftLeft_eq_add (b := i.opcode) (by omega), or_shiftLeft_eq_add (by omega)]

section
variable (i : Instr)

theorem opField_encode : (opField (encode i)).toNat = i.opcode := by
  have hop := opcode_lt i
  rw [opField_toNat, encode_toNat]
  omega

theorem chField_encode : chField (encode i) = i.chBits := by
  have hop := opcode_lt i
  rw [BitVec.toNat_eq, chField_toNat, encode_toNat]
  omega

theorem idxField_encode : idxField (encode i) = i.idxBits := by
  have hop := opcode_lt i
  have hch := i.chBits.isLt
  rw [BitVec.toNat_eq, idxField_toNat, encode_toNat]
  omega

theorem rsvField_encode : rsvField (encode i) = 0 := by
  have hop := opcode_lt i
  have hch := i.chBits.isLt
  have hidx := i.idxBits.isLt
  rw [rsvField_eq_zero_iff, encode_toNat]
  omega

theorem decode_encode : decode (encode i) = .ok i :=
  (decode_ok_iff _ i).2 ⟨rsvField_encode i, opField_encode i, chField_encode i, idxField_encode i⟩

end

/-- Settles O1: the word of a command has the command's fields. -/
theorem decodeInvertsEncode : Obligations.DecodeInvertsEncode := fun i _ => decode_encode i

theorem encode_of_decode {w : Word} {i : Instr} (h : decode w = .ok i) : encode i = w := by
  obtain ⟨hrsv, hop, hch, hidx⟩ := (decode_ok_iff w i).1 h
  refine eq_of_fields_eq ?_ ?_ ?_ ?_
  · rw [BitVec.toNat_eq, opField_encode, hop]
  · rw [chField_encode, hch]
  · rw [idxField_encode, hidx]
  · rw [rsvField_encode, hrsv]

/-- Settles O2: a word and the word of the command it gives have the same four fields. -/
theorem encodeInvertsDecode : Obligations.EncodeInvertsDecode := fun _ _ => encode_of_decode

/-! ### Legal words, by field -/

/-- The fields of w are those of some command: OP names it, RSV is 0, and so is each operand field it does not use
(R94). -/
structure LegalFields (w : Word) : Prop where
  op : (opField w).toNat < 16
  rsv : rsvField w = 0
  ch : (opField w).toNat ∉ [0x04, 0x05, 0x0C, 0x0D] → chField w = 0
  idx : (opField w).toNat ∉ [0x0C, 0x0D] → idxField w = 0

theorem decodeOp_accepts_iff {w : Word} {op : Nat} (hop : op < 16) :
    (∃ i, decodeOp w op = .ok i) ↔
      (op ∉ [0x04, 0x05, 0x0C, 0x0D] → chField w = 0) ∧ (op ∉ [0x0C, 0x0D] → idxField w = 0) := by
  interval_cases op <;> simp [decodeOp, decodePlain_ok, decodeChannel_ok, decodeIndexed_ok]

theorem decode_accepts_iff (w : Word) : (∃ i, decode w = .ok i) ↔ LegalFields w := by
  constructor
  · rintro ⟨i, hi⟩
    obtain ⟨hrsv, hfields⟩ := (decode_ok_iff w i).1 hi
    have hop : (opField w).toNat < 16 := hfields.1 ▸ opcode_lt i
    obtain ⟨hch, hidx⟩ := (decodeOp_accepts_iff hop).1 ⟨i, decodeOp_ok.2 hfields⟩
    exact ⟨hop, hrsv, hch, hidx⟩
  · rintro ⟨hop, hrsv, hch, hidx⟩
    obtain ⟨i, hi⟩ := (decodeOp_accepts_iff hop).2 ⟨hch, hidx⟩
    exact ⟨i, (decode_ok_iff w i).2 ⟨hrsv, decodeOp_ok.1 hi⟩⟩

/-! ### Legal words, by the match-and-mask table (R93) -/

/-- A row fixes OP, which is all of its pattern, and RSV, and each operand field its command does not use, at 0 (R93,
R94). -/
structure OpcodeRow.FixesFields (r : OpcodeRow) : Prop where
  op : opField r.mask = BitVec.allOnes 8 ∧ (opField r.pattern).toNat < 16
  pattern : r.pattern = (opField r.pattern).setWidth 32
  rsv : rsvField r.mask = BitVec.allOnes 14 ∧ rsvField r.pattern = 0
  ch : (opField r.pattern).toNat ∉ [0x04, 0x05, 0x0C, 0x0D] →
    chField r.mask = BitVec.allOnes 2 ∧ chField r.pattern = 0
  idx : (opField r.pattern).toNat ∉ [0x0C, 0x0D] → idxField r.mask = BitVec.allOnes 8 ∧ idxField r.pattern = 0

theorem fixesFields_of_mem {r : OpcodeRow} (hr : r ∈ opcodeRows) : r.FixesFields where
  op := by revert r; decide
  pattern := by revert r; decide
  rsv := by revert r; decide
  ch := by revert r; decide
  idx := by revert r; decide

section
variable {r : OpcodeRow} {w : Word}

/-- A field of the mask that is all ones makes an accepted word have the pattern's field. -/
theorem field_of_accepts {start len : Nat} (h : r.accepts w = true)
    (hmask : r.mask.extractLsb' start len = BitVec.allOnes len) :
    w.extractLsb' start len = r.pattern.extractLsb' start len := by
  have hmasked : w &&& r.mask = r.pattern := eq_of_beq h
  rw [← hmasked, BitVec.extractLsb'_and, hmask, BitVec.and_allOnes]

theorem opField_of_accepts (hr : r ∈ opcodeRows) (h : r.accepts w = true) : opField w = opField r.pattern :=
  field_of_accepts h (fixesFields_of_mem hr).op.1

/-- The pattern of a row is the OP of each word it accepts. -/
theorem pattern_of_accepts (hr : r ∈ opcodeRows) (h : r.accepts w = true) :
    r.pattern = (opField w).setWidth 32 := by
  rw [opField_of_accepts hr h]
  exact (fixesFields_of_mem hr).pattern

theorem legalFields_of_accepts (hr : r ∈ opcodeRows) (h : r.accepts w = true) : LegalFields w := by
  obtain ⟨⟨_, hop⟩, _, ⟨hrsv, hrsv0⟩, hch, hidx⟩ := fixesFields_of_mem hr
  rw [← opField_of_accepts hr h] at hop hch hidx
  refine ⟨hop, (field_of_accepts h hrsv).trans hrsv0, fun hunused => ?_, fun hunused => ?_⟩
  · obtain ⟨hmask, hzero⟩ := hch hunused
    exact (field_of_accepts h hmask).trans hzero
  · obtain ⟨hmask, hzero⟩ := hidx hunused
    exact (field_of_accepts h hmask).trans hzero

end

theorem eq_of_pattern_eq {r q : OpcodeRow} (hr : r ∈ opcodeRows) (hq : q ∈ opcodeRows)
    (h : r.pattern = q.pattern) : r = q :=
  List.inj_on_of_nodup_map (f := OpcodeRow.pattern) (by decide) hr hq h

theorem legalCmd_encode (i : Instr) : legalCmd (encode i) = true := by
  cases i with
  | nop => exact Laws.EncodesLegal.nop
  | validate => exact Laws.EncodesLegal.validate
  | decode => exact Laws.EncodesLegal.decode
  | encode => exact Laws.EncodesLegal.encode
  | extract c => exact Laws.EncodesLegal.extract c
  | pack c => exact Laws.EncodesLegal.pack c
  | extw => exact Laws.EncodesLegal.extw
  | packw => exact Laws.EncodesLegal.packw
  | addr => exact Laws.EncodesLegal.addr
  | rdpix => exact Laws.EncodesLegal.rdpix
  | wrpix => exact Laws.EncodesLegal.wrpix
  | ramp => exact Laws.EncodesLegal.ramp
  | lutwr c k => exact Laws.EncodesLegal.lutwr c k
  | lutrd c k => exact Laws.EncodesLegal.lutrd c k
  | todev => exact Laws.EncodesLegal.todev
  | fromdev => exact Laws.EncodesLegal.fromdev

/-- The decoder and the table accept the same words. -/
theorem decode_accepts_iff_legalCmd (w : Word) : (∃ i, decode w = .ok i) ↔ legalCmd w = true := by
  constructor
  · rintro ⟨i, hi⟩
    exact encode_of_decode hi ▸ legalCmd_encode i
  · intro hlegal
    obtain ⟨r, hr, hw⟩ := List.any_eq_true.1 hlegal
    exact (decode_accepts_iff w).2 (legalFields_of_accepts hr hw)

/-- Settles O3: the pattern of a row is the OP of each word it accepts, and no two rows have one pattern. -/
theorem decoderAgreesWithTable : Obligations.DecoderAgreesWithTable := by
  refine ⟨decode_accepts_iff_legalCmd, fun w i hi r hr h => ?_, fun w r hr q hq hrw hqw => ?_⟩
  · obtain ⟨_, hop, _⟩ := (decode_ok_iff w i).1 hi
    rw [pattern_of_accepts hr h, ← hop, BitVec.ofNat_toNat]
  · exact eq_of_pattern_eq hr hq ((pattern_of_accepts hr hrw).trans (pattern_of_accepts hq hqw).symm)

/-- Settles O5: each word is closed, so the decoder evaluates on it (V7). -/
theorem sampleWordsDecode : Obligations.SampleWordsDecode := by
  unfold Obligations.SampleWordsDecode
  decide

/-! ### Illegal words (R94) -/

theorem legalCmd_iff_legalFields (w : Word) : legalCmd w = true ↔ LegalFields w :=
  (decode_accepts_iff_legalCmd w).symm.trans (decode_accepts_iff w)

theorem legalFields_iff (w : Word) : LegalFields w ↔
    w.toNat % 256 < 16 ∧ w.toNat / 2 ^ 18 = 0 ∧
      (w.toNat / 256 % 4 ≠ 0 → w.toNat % 256 ∈ [0x04, 0x05, 0x0C, 0x0D]) ∧
      (w.toNat / 1024 % 256 ≠ 0 → w.toNat % 256 ∈ [0x0C, 0x0D]) := by
  simp only [ne_eq, ← opField_toNat, ← rsvField_eq_zero_iff, ← chField_eq_zero_iff, ← idxField_eq_zero_iff]
  constructor
  · rintro ⟨hop, hrsv, hch, hidx⟩
    exact ⟨hop, hrsv, not_imp_comm.1 hch, not_imp_comm.1 hidx⟩
  · rintro ⟨hop, hrsv, hch, hidx⟩
    exact ⟨hop, hrsv, not_imp_comm.1 hch, not_imp_comm.1 hidx⟩

theorem exists_decode_error_of_illegal {w : Word} (h : legalCmd w = false) : ∃ e, decode w = .error e := by
  cases hw : decode w with
  | error e => exact ⟨e, rfl⟩
  | ok i => simp [(decode_accepts_iff_legalCmd w).1 ⟨i, hw⟩] at h

end Sys2Proof

namespace Sys2Proof.Machine

/-- A running illegal word is ended by the word check alone (R94, R187). -/
theorem engineTurn_illegal {s : State} (heng : s.eng = .run) (hwaiting : s.waiting = none)
    (hillegal : legalCmd s.curCmd = false) : engineTurn s = .next (s.raise .illegal) := by
  obtain ⟨e, he⟩ := exists_decode_error_of_illegal hillegal
  simp [engineTurn, heng, hwaiting, he]

/-- Settles O4: an illegal word is one whose fields are no command's, and the word check raises ILLEGAL. -/
theorem illegalWords : Obligations.IllegalWords := by
  refine ⟨fun w => ?_, fun s hagenda heng hwaiting hillegal => ?_⟩
  · rw [Bool.eq_false_iff, ne_eq, legalCmd_iff_legalFields, legalFields_iff]
    simp only [not_and_or, Classical.not_imp, not_lt]
  · exact ⟨_, (step_empty hagenda).trans (engineTurn_illegal heng hwaiting hillegal), raise_errored .illegal s⟩

end Sys2Proof.Machine

/-! The pixel value (40_pixel_value.md): `make` lays four bytes side by side, and each channel is one of them. -/

namespace Sys2Proof.Machine

/-- A byte appended below a value shifts the value up by 8 bits. -/
theorem append_byte_toNat {n : Nat} (x : BitVec n) (y : Byte) : (x ++ y).toNat = x.toNat * 2 ^ 8 + y.toNat := by
  rw [BitVec.toNat_append, ← Nat.shiftLeft_add_eq_or_of_lt y.isLt, Nat.shiftLeft_eq]

/-- The masked inputs are the base-256 digits of the pixel value: alpha, red, green, blue from the top (R110). -/
theorem make_toNat (r g b a : Nat) :
    (make r g b a).toNat = a % 256 * 2 ^ 24 + r % 256 * 2 ^ 16 + g % 256 * 2 ^ 8 + b % 256 := by
  simp only [make, append_byte_toNat, BitVec.toNat_ofNat]
  omega

/-- No digit of the pixel value overlaps another, so a channel is the digit `make` put there (R111). -/
theorem chan_make_toNat (r g b a : Nat) (c : Channel) :
    (chan (make r g b a) c).toNat =
      (match c with | .red => r | .green => g | .blue => b | .alpha => a) % 256 := by
  rw [chan_toNat, make_toNat]
  cases c <;> dsimp only <;> omega

/-- Settles O25: the digits are those of `make_toNat`, and each channel selects one of them. -/
theorem makeMasksChannels : Obligations.MakeMasksChannels := fun r g b a =>
  ⟨make_toNat r g b a, chan_make_toNat r g b a .red, chan_make_toNat r g b a .green,
    chan_make_toNat r g b a .blue, chan_make_toNat r g b a .alpha⟩

end Sys2Proof.Machine

/-! The sample codec (41_sample_codec.md): where nothing disturbs the port, DECODE is one run of reads and a value,
ENCODE one run of writes. -/

namespace Sys2Proof.Machine

/-! ### The samples of a triplet -/

/-- A triplet is 3 bytes or 6 (R120). -/
theorem tripletBytes_eq (m : Nat) : 3 * sampleWidth m = if m ≤ 255 then 3 else 6 := by
  unfold sampleWidth
  split <;> split <;> omega

theorem scale_eq (x m : Nat) :
    scale x m = if m = 255 then x else if m = 65535 then x / 256 else x * 255 / m := by
  rw [scale, Nat.shiftRight_eq_div_pow]

/-- Sample k of the bytes at a is what memory holds there as sample k: its one or two bytes lie within the triplet. -/
theorem sampleOf_bytesAt (s : State) (a : Word) (m : Nat) {k : Nat} (hk : k < 3) :
    sampleOf (sampleWidth m) (s.bytesAt a (3 * sampleWidth m)) k = s.sampleAt a m k := by
  by_cases hm : 255 < m
  · have hwidth : sampleWidth m = 2 := if_pos hm
    have hhigh : 2 * k < 3 * 2 := by omega
    have hlow : 2 * k + 1 < 3 * 2 := by omega
    rw [hwidth, sampleOf, if_neg (by decide), State.sampleAt, if_neg (Nat.not_le.2 hm),
      bytesAt_getD, if_pos hhigh, bytesAt_getD, if_pos hlow]
  · have hwidth : sampleWidth m = 1 := if_neg hm
    rw [hwidth, sampleOf, if_pos rfl, State.sampleAt, if_pos (Nat.not_lt.1 hm), bytesAt_getD, if_pos hk]

/-- The colour channels of a decoded triplet are its scaled samples mod 256, in order (R121). -/
theorem chan_decodeTriplet_bytesAt (s : State) (a : Word) (m : Nat) {c : Channel} {k : Nat}
    (h : (c, k) ∈ [(Channel.red, 0), (.green, 1), (.blue, 2)]) :
    (chan (decodeTriplet m (s.bytesAt a (3 * sampleWidth m))) c).toNat = scale (s.sampleAt a m k) m % 256 := by
  simp only [List.mem_cons, Prod.mk.injEq, List.not_mem_nil, or_false] at h
  rw [decodeTriplet, chan_make_toNat]
  obtain ⟨rfl, rfl⟩ | ⟨rfl, rfl⟩ | ⟨rfl, rfl⟩ := h <;>
    exact congrArg (fun x => scale x m % 256) (sampleOf_bytesAt s a m (by decide))

theorem chan_alpha_decodeTriplet (m : Nat) (bs : List Byte) : chan (decodeTriplet m bs) .alpha = 0 :=
  BitVec.eq_of_toNat_eq (chan_make_toNat _ _ _ _ .alpha)

/-! ### The bytes of an output triplet -/

theorem plus_cases_of_lt_three {k : Nat} (a : Word) (hk : k < 3) :
    plus a k = a ∨ plus a k = a + 1 ∨ plus a k = a + 2 := by
  interval_cases k
  · exact .inl (plus_zero a)
  · exact .inr (.inl rfl)
  · exact .inr (.inr rfl)

theorem writeEvents_encodeTriplet (a p : Word) :
    writeEvents a (encodeTriplet p) =
      [.write a (chan p .red), .write (a + 1) (chan p .green), .write (a + 2) (chan p .blue)] := by
  have hplus : writeEvents a (encodeTriplet p) =
      [.write (plus a 0) (chan p .red), .write (plus a 1) (chan p .green), .write (plus a 2) (chan p .blue)] := rfl
  rw [hplus, plus_zero]
  rfl

/-- Each of the three stored bytes is its channel: no later store of the triplet falls on it (R123). -/
theorem byteAt_storeBytes_encodeTriplet (s : State) (a p : Word) :
    (s.storeBytes a (encodeTriplet p)).byteAt a = chan p .red ∧
      (s.storeBytes a (encodeTriplet p)).byteAt (a + 1) = chan p .green ∧
      (s.storeBytes a (encodeTriplet p)).byteAt (a + 2) = chan p .blue := by
  have hbyte (k : Nat) (hk : k < 3) :
      (s.storeBytes a (encodeTriplet p)).byteAt (plus a k) = (encodeTriplet p).getD k 0 :=
    byteAt_storeBytes_at s a _ k hk (by simp [encodeTriplet])
  have hred := hbyte 0 (by decide)
  rw [plus_zero] at hred
  exact ⟨hred, hbyte 1 (by decide), hbyte 2 (by decide)⟩

/-! ### Triplets at the port when nothing disturbs it -/

section
variable {free : Overlap} {a : Word} {s : State}

/-- An undisturbed triplet is read whole, in increasing address order (R121). -/
theorem decodeAt_calm {m : Nat} (ha : s.admitsSpan a (3 * sampleWidth m))
    (hf : ∀ k, k < 3 * sampleWidth m → free (plus a k) = false) (hq : s.quiet) :
    decodeAt free a m s = .ok (decodeTriplet m (s.bytesAt a (3 * sampleWidth m)))
      { s with trace := (s.readEvents a (3 * sampleWidth m)).reverse ++ s.trace } := by
  rw [decodeAt, readBytes_calm ha hf hq]
  rfl

/-- An undisturbed output triplet is stored whole, in increasing address order (R123). -/
theorem encodeAt_calm {p : Word} (ha : s.admitsSpan a 3) (hf : ∀ k, k < 3 → free (plus a k) = false)
    (hq : s.quiet) : encodeAt free a p s = .ok () (s.storeBytes a (encodeTriplet p)) :=
  writeBytes_calm (bs := encodeTriplet p) ha hf hq

end

/-! ### The commands -/

section
variable {s : State}

theorem headerOk_iff : s.headerOk = true ↔ s.maxv ≠ 0 := bne_iff_ne

theorem exec_decode_header (hm : s.maxv = 0) : exec .decode s = .next (s.raise .header) :=
  if_neg fun h => headerOk_iff.1 h hm

theorem exec_decode_calm (hm : s.maxv ≠ 0) (hq : s.quiet) (ha : s.admitsSpan s.maddr (3 * sampleWidth s.maxv)) :
    exec .decode s = .next
      { s with
        pix := decodeTriplet s.maxv (s.bytesAt s.maddr (3 * sampleWidth s.maxv)),
        trace := (s.readEvents s.maddr (3 * sampleWidth s.maxv)).reverse ++ s.trace }.complete := by
  have hexec : exec .decode s =
      ((decodeAt noOverlap s.maddr s.maxv s).bind fun p t => .ok () { t with pix := p }).finish :=
    if_pos (headerOk_iff.2 hm)
  rw [hexec, decodeAt_calm ha (fun _ _ => rfl) hq]
  rfl

theorem exec_encode_calm (hq : s.quiet) (ha : s.admitsSpan s.maddr 3) :
    exec .encode s = .next (s.storeBytes s.maddr (encodeTriplet s.pix)).complete :=
  congrArg Run.finish (encodeAt_calm ha (fun _ _ => rfl) hq)

end

/-- Settles O22: the check stops MAXVAL = 0; else the triplet read gives PIX, channel by channel. -/
theorem decodeRule : Obligations.DecodeRule := by
  refine ⟨rfl, fun s hm => ⟨_, exec_decode_header hm, raise_errored .header s⟩, fun s hm hq ha => ?_⟩
  rw [← tripletBytes_eq] at ha ⊢
  refine ⟨_, exec_decode_calm hm hq ha, complete_completed_from rfl rfl, rfl, rfl, fun c k hck => ?_,
    chan_alpha_decodeTriplet _ _⟩
  rw [← scale_eq]
  exact chan_decodeTriplet_bytesAt s s.maddr s.maxv hck

/-- Settles O23: ENCODE stores the triplet of PIX, and no store reaches a byte outside it. -/
theorem encodeRule : Obligations.EncodeRule := by
  refine ⟨rfl, fun s hq ha => ⟨_, exec_encode_calm hq ha, ?_⟩⟩
  have hframe := storeBytes_frame s s.maddr (encodeTriplet s.pix)
  obtain ⟨hred, hgreen, hblue⟩ := byteAt_storeBytes_encodeTriplet s s.maddr s.pix
  refine ⟨?_, ?_, hred, hgreen, hblue, fun b h0 h1 h2 => ?_, ?_⟩
  · exact complete_completed_from (by rw [hframe]) (by rw [hframe])
  · rw [hframe]
    rfl
  · refine byteAt_storeBytes_other s s.maddr b _ fun k hk hb => ?_
    obtain h | h | h := plus_cases_of_lt_three s.maddr hk
    · exact h0 (hb.symm.trans h)
    · exact h1 (hb.symm.trans h)
    · exact h2 (hb.symm.trans h)
  · rw [complete_trace, hframe, writeEvents_encodeTriplet]
    rfl

end Sys2Proof.Machine

/-! The bitfield packer (42_bitfield_packer.md): its fields bit by bit, the round trips, and its commands, which the
port disturbs only where a byte is not answered. -/

namespace Sys2Proof.Machine

/-! ### The addresses -/

theorem lowHalf_toNat (w : Word) : (w.extractLsb' 0 16).toNat = w.toNat % 65536 := by
  simp [BitVec.extractLsb'_toNat]

theorem highHalf_toNat (w : Word) : (w.extractLsb' 16 16).toNat = w.toNat / 65536 := by
  have hw := w.isLt
  simp only [BitVec.extractLsb'_toNat, Nat.shiftRight_eq_div_pow]
  omega

theorem bpp_eq (s : State) : s.bpp = s.fmt.toNat % 8 := by
  simp [State.bpp, BitVec.extractLsb'_toNat]

theorem addressOf_toNat (s : State) (x y : Nat) :
    (s.addressOf x y).toNat = ((y + s.yoff) * s.devStride.toNat + (x + s.xoff) * s.bpp) % 2 ^ 32 :=
  BitVec.toNat_ofNat _ _

/-- Settles O33: reducing the offset before DEV_BASE is added does not change the sum mod 2^32. -/
theorem deviceAddressFormula : Obligations.DeviceAddressFormula := fun s x y => by
  refine ⟨addressOf_toNat s x y, ?_⟩
  rw [State.devAddr, BitVec.toNat_ofNat, addressOf_toNat, Nat.add_mod_mod, Nat.add_assoc]

/-! ### The fields of a device word, bit by bit -/

/-- PACKW's word has a bit exactly when some contribution has it: the channels merge by OR (R133). -/
theorem packWord_bit_iff (s : State) (p : Word) (j : Nat) :
    (s.packWord p).getLsbD j = true ↔ ∃ c, (s.packField p c).getLsbD j = true := by
  simp only [State.packWord, BitVec.getLsbD_or, Bool.or_eq_true]
  constructor
  · rintro (((h | h) | h) | h)
    exacts [⟨_, h⟩, ⟨_, h⟩, ⟨_, h⟩, ⟨_, h⟩]
  · rintro ⟨c, h⟩
    cases c <;> simp [h]

theorem packWord_contribBit_iff {s : State} (hformat : s.formatOk = true) (p : Word) {j : Nat} (hj : j < 32) :
    (s.packWord p).getLsbD j = true ↔ ∃ c, contribBit (chan p c) (s.off c) (s.wid c) j = true := by
  rw [packWord_bit_iff]
  exact exists_congr fun c => by rw [State.packField, packChannel_bit _ _ _ _ (wid_le hformat c) hj]

theorem bit_and_bppMask (w : Word) (n j : Nat) :
    (w &&& bppMask n).getLsbD j = (w.getLsbD j && decide (j < 8 * n)) := by
  rw [BitVec.getLsbD_and]
  by_cases hj : j < 32
  · rw [bppMask_bit n j hj]
  · rw [BitVec.getLsbD_of_ge w j (Nat.not_lt.1 hj), Bool.false_and, Bool.false_and]

/-- A channel of the unpacked word is its field of the masked word: `make` loses no bit of a byte (R135). -/
theorem chan_unpackWord (s : State) (w : Word) (c : Channel) :
    chan (s.unpackWord w) c = s.extractField (w &&& bppMask s.bpp) c := by
  apply BitVec.eq_of_toNat_eq
  rw [State.unpackWord, chan_make_toNat]
  cases c <;> exact Nat.mod_eq_of_lt (BitVec.isLt _)

theorem chan_unpackWord_bit {s : State} (hformat : s.formatOk = true) (w : Word) (c : Channel) (j : Nat) :
    (chan (s.unpackWord w) c).getLsbD j =
      (fieldBit w (s.off c) (s.wid c) j && decide (s.off c + j - (8 - s.wid c) < 8 * s.bpp)) := by
  rw [chan_unpackWord, State.extractField, extractChannel_bit _ _ _ _ (wid_le hformat c), fieldBit, bit_and_bppMask,
    fieldBit, Bool.and_assoc _ (w.getLsbD _)]

/-! ### Round trips -/

/-- A byte that has the bits of v from k on, and no other, is v with its low k bits cleared. -/
theorem toNat_of_low_bits_cleared {b v : Byte} {k : Nat}
    (h : ∀ j, b.getLsbD j = (decide (k ≤ j) && v.getLsbD j)) : b.toNat = v.toNat - v.toNat % 2 ^ k := by
  have hshift : v.toNat - v.toNat % 2 ^ k = (v.toNat >>> k) <<< k := by
    rw [Nat.shiftRight_eq_div_pow, Nat.shiftLeft_eq]
    have := Nat.div_add_mod' v.toNat (2 ^ k)
    omega
  rw [hshift]
  refine Nat.eq_of_testBit_eq fun j => ?_
  rw [Nat.testBit_shiftLeft, Nat.testBit_shiftRight]
  refine (h j).trans ?_
  by_cases hj : k ≤ j
  · simp [hj, BitVec.getLsbD]
  · simp [hj]

/-- A field that holds the contribution of v gives back v with its low `8 - wid` bits cleared (R146). -/
theorem extractChannel_of_contribution {w : Word} {v : Byte} {off wid : Nat} (hwid : wid ≤ 8)
    (hfield : ∀ i, off ≤ i → i < off + wid → w.getLsbD i = contribBit v off wid i) :
    (extractChannel w off wid).toNat = v.toNat - v.toNat % 2 ^ (8 - wid) := by
  refine toNat_of_low_bits_cleared fun j => ?_
  rw [extractChannel_bit w off wid j hwid, fieldBit]
  by_cases hlow : 8 - wid ≤ j
  · by_cases hj : j < 8
    · have hsource : off + j - (8 - wid) - off + (8 - wid) = j := by omega
      have hin : off ≤ off + j - (8 - wid) ∧ off + j - (8 - wid) < off + wid := by omega
      rw [hfield _ hin.1 hin.2, contribBit, hsource]
      simp [hlow, hj, hin]
    · simp [hj, BitVec.getLsbD_of_ge v j (Nat.not_lt.1 hj)]
  · simp [hlow]

/-- Settles O34: a field inside the word keeps the whole contribution. -/
theorem channelRoundTrip : Obligations.ChannelRoundTrip := by
  intro v off wid hwid _ hfits
  have htrip := extractChannel_of_contribution (w := packChannel v off wid) (v := v) hwid fun i _ hi =>
    packChannel_bit v off wid i hwid (by omega)
  refine ⟨htrip, ?_⟩
  have hmod := Nat.mod_lt v.toNat (Nat.two_pow_pos (8 - wid))
  have hle := Nat.mod_le v.toNat (2 ^ (8 - wid))
  omega

/-- Inside the field of c no other channel contributes, so the packed word has c's contribution there (R147). -/
theorem packWord_bit_in_field {s : State} (hformat : s.formatOk = true) (p : Word) {c : Channel} {i : Nat}
    (hapart : ∀ d, c ≠ d →
      s.off c + s.wid c ≤ s.off d ∨ s.off d + s.wid d ≤ s.off c ∨ s.wid c = 0 ∨ s.wid d = 0)
    (hlow : s.off c ≤ i) (hhigh : i < s.off c + s.wid c) (hi : i < 32) :
    (s.packWord p).getLsbD i = contribBit (chan p c) (s.off c) (s.wid c) i := by
  rw [Bool.eq_iff_iff, packWord_contribBit_iff hformat p hi]
  refine ⟨fun ⟨d, hd⟩ => ?_, fun h => ⟨c, h⟩⟩
  by_cases hcd : c = d
  · rwa [hcd]
  · have hoverlap : s.off d ≤ i ∧ i < s.off d + s.wid d := by
      simp only [contribBit, Bool.and_eq_true, decide_eq_true_eq] at hd
      exact hd.1
    have := hapart d hcd
    omega

/-- Settles O35: within the pixel's bits the mask loses nothing, and disjoint fields do not disturb one another. -/
theorem wordRoundTrip : Obligations.WordRoundTrip := by
  intro s p hformat hinside hapart c
  rw [chan_unpackWord]
  refine extractChannel_of_contribution (wid_le hformat c) fun i hlow hhigh => ?_
  have hpixel : i < 8 * s.bpp := Nat.lt_of_lt_of_le hhigh (hinside c)
  have hword : i < 32 := by have := (bpp_le hformat).2; omega
  rw [bit_and_bppMask, packWord_bit_in_field hformat p (hapart c) hlow hhigh hword]
  simp [hpixel]

/-! ### The commands that make no access -/

/-- A packer command stops at a failing device format, and nothing else changes (R181, R187). -/
theorem errored_of_bad_format {s : State} {o : Host.Outcome State Fault Refusal} (hformat : s.formatOk = false) :
    ∃ t, (if s.formatOk then o else .next (s.raise .format)) = .next t ∧ Errored .format s t :=
  ⟨_, if_neg (by simp [hformat]), raise_errored .format s⟩

/-- Settles O26: EXTRACT zero-extends the field of the whole DWORD. -/
theorem extractRule : Obligations.ExtractRule := by
  refine fun c => ⟨by cases c <;> rfl, fun s => ⟨errored_of_bad_format, fun hformat => ?_⟩⟩
  refine ⟨_, if_pos hformat, complete_completed_from rfl rfl, rfl, fun j => ?_⟩
  have hbit : (s.extractField s.dword c).getLsbD j = fieldBit s.dword (s.off c) (s.wid c) j :=
    extractChannel_bit _ _ _ _ (wid_le hformat c)
  rw [complete_res, BitVec.getLsbD_setWidth, hbit]
  by_cases hj : j < 32
  · simp [hj]
  · have hbyte : ¬ j < 8 := by omega
    simp [hj, hbyte, fieldBit]

/-- Settles O27: PACK leaves the contribution, cut at bit 31, in RES. -/
theorem packRule : Obligations.PackRule := by
  refine fun c => ⟨by cases c <;> rfl, fun s => ⟨errored_of_bad_format, fun hformat => ?_⟩⟩
  exact ⟨_, if_pos hformat, complete_completed_from rfl rfl, rfl, fun j hj =>
    packChannel_bit _ _ _ _ (wid_le hformat c) hj⟩

/-- Settles O28: each channel of the unpacked word is its field of the masked DWORD. -/
theorem extwRule : Obligations.ExtwRule := by
  refine ⟨rfl, fun s => ⟨errored_of_bad_format, fun hformat => ?_⟩⟩
  exact ⟨_, if_pos hformat, complete_completed_from rfl rfl, rfl, chan_unpackWord_bit hformat s.dword⟩

/-- Settles O29: the packed word is the OR of the contributions. -/
theorem packwRule : Obligations.PackwRule := by
  refine ⟨rfl, fun s => ⟨errored_of_bad_format, fun hformat => ?_⟩⟩
  exact ⟨_, if_pos hformat, complete_completed_from rfl rfl, rfl, fun j => packWord_contribBit_iff hformat s.pix⟩

/-- Settles O30: the coordinates and offsets are the halves of XY and DEV_OFS. -/
theorem addrRule : Obligations.AddrRule := by
  refine ⟨rfl, fun s => ⟨errored_of_bad_format, fun hformat => ?_⟩⟩
  refine ⟨_, if_pos hformat, complete_completed_from rfl rfl, rfl, ?_⟩
  rw [complete_res, addressOf_toNat, bpp_eq]
  simp only [State.xcoord, State.ycoord, State.xoff, State.yoff, lowHalf_toNat, highHalf_toNat]

end Sys2Proof.Machine

/-! The device pixel at the port (42_bitfield_packer.md R137, R138): RDPIX is one run of reads and a value, WRPIX one run
of writes, and a byte the platform does not answer ends the run there (R72). -/

namespace Sys2Proof.Machine

/-! ### The bytes of a device word -/

theorem wordBytes_getD {n k : Nat} (w : Word) (hk : k < n) : (wordBytes n w).getD k 0 = w.extractLsb' (8 * k) 8 := by
  simp [wordBytes, hk]

theorem leValue_lt_two_pow (bs : List Byte) : leValue bs < 2 ^ (8 * bs.length) := by
  rw [Nat.pow_mul]
  exact leValue_lt bs

/-- At most four bytes fit in a word, so no byte of the word is cut (R137). -/
theorem leWord_toNat {bs : List Byte} (hbs : bs.length ≤ 4) : (BitVec.ofNat 32 (leValue bs)).toNat = leValue bs := by
  have hfits : 2 ^ (8 * bs.length) ≤ 2 ^ 32 := Nat.pow_le_pow_right (by decide) (by omega)
  rw [BitVec.toNat_ofNat, Nat.mod_eq_of_lt (Nat.lt_of_lt_of_le (leValue_lt_two_pow bs) hfits)]

theorem leWord_byte {bs : List Byte} (hbs : bs.length ≤ 4) (k : Nat) :
    (BitVec.ofNat 32 (leValue bs)).extractLsb' (8 * k) 8 = bs.getD k 0 := by
  apply BitVec.eq_of_toNat_eq
  rw [BitVec.extractLsb'_toNat, leWord_toNat hbs, Nat.shiftRight_eq_div_pow, Nat.pow_mul]
  exact leValue_byte bs k

/-- A word read from n bytes has no bit at or above 8 * n, so masking it to n bytes changes nothing (R135, R137). -/
theorem leWord_and_bppMask {bs : List Byte} (hbs : bs.length ≤ 4) :
    BitVec.ofNat 32 (leValue bs) &&& bppMask bs.length = BitVec.ofNat 32 (leValue bs) := by
  refine BitVec.eq_of_getLsbD_eq fun j _ => ?_
  rw [bit_and_bppMask]
  by_cases hj : j < 8 * bs.length
  · simp [hj]
  · have hlt : (BitVec.ofNat 32 (leValue bs)).toNat < 2 ^ j := by
      rw [leWord_toNat hbs]
      exact Nat.lt_of_lt_of_le (leValue_lt_two_pow bs) (Nat.pow_le_pow_right (by decide) (Nat.not_lt.1 hj))
    have hbit : (BitVec.ofNat 32 (leValue bs)).getLsbD j = false := Nat.testBit_lt_two_pow hlt
    rw [hbit, Bool.false_and]

theorem bytesAt_length (s : State) (a : Word) (n : Nat) : (s.bytesAt a n).length = n := by simp [State.bytesAt]

section
variable {s : State} {x y : Nat}

theorem deviceWord_byte (hformat : s.formatOk = true) (k : Nat) :
    (s.deviceWord x y).extractLsb' (8 * k) 8 = if k < s.bpp then s.byteAt (plus (s.devAddr x y) k) else 0 := by
  rw [State.deviceWord, leWord_byte (by rw [bytesAt_length]; exact (bpp_le hformat).2), bytesAt_getD]

/-- A device word read from memory is unpacked whole: its bits above the pixel are 0 (R135, R137). -/
theorem chan_unpackWord_deviceWord_bit (hformat : s.formatOk = true) (c : Channel) (j : Nat) :
    (chan (s.unpackWord (s.deviceWord x y)) c).getLsbD j =
      fieldBit (s.deviceWord x y) (s.off c) (s.wid c) j := by
  have hlength := bytesAt_length s (s.devAddr x y) s.bpp
  have hmask : s.deviceWord x y &&& bppMask s.bpp = s.deviceWord x y := by
    have := leWord_and_bppMask (hlength.trans_le (bpp_le hformat).2)
    rwa [hlength] at this
  rw [chan_unpackWord, hmask, State.extractField, extractChannel_bit _ _ _ _ (wid_le hformat c)]

end

/-! ### Device pixels at the port -/

section
variable {free : Overlap} {a : Word} {s : State}

/-- A run of reads whose byte j is the first not answered reads the j bytes before it and waits there (R72). -/
theorem readBytes_hung {n j : Nat} (hj : j < n) (ha : s.admitsSpan a j) (hf : ∀ k, k < j → free (plus a k) = false)
    (hq : s.quiet) (hhang : s.admits (plus a j) = false) :
    readBytes free n a s =
      .hung { s with trace := (s.readEvents a j).reverse ++ s.trace, waiting := some (plus a j) } := by
  induction n generalizing a s j with
  | zero => exact absurd hj (Nat.not_lt_zero j)
  | succ n ih =>
    unfold readBytes
    cases j with
    | zero =>
      rw [plus_zero] at hhang ⊢
      rw [portRead_hung hhang]
      rfl
    | succ j =>
      have hf0 : free a = false := by simpa [plus_zero] using hf 0 (Nat.succ_pos j)
      have hf1 : ∀ k, k < j → free (plus (a + 1) k) = false := fun k hk => by
        rw [plus_succ]
        exact hf (k + 1) (Nat.succ_lt_succ hk)
      rw [← plus_succ] at hhang ⊢
      have hrest := ih (s := { s with trace := .read a (s.byteAt a) :: s.trace }) (Nat.lt_of_succ_lt_succ hj)
        (admitsSpan_tail ha) hf1 hq hhang
      rw [portRead_calm (admitsSpan_head ha) hf0 hq, Run.bind, hrest, readEvents_succ]
      simp only [Run.bind, List.reverse_cons, List.append_assoc, List.singleton_append]
      rfl

/-- An undisturbed device pixel is read whole, in increasing address order (R137). -/
theorem readDevicePixel_calm (ha : s.admitsSpan a s.bpp) (hf : ∀ k, k < s.bpp → free (plus a k) = false)
    (hq : s.quiet) :
    readDevicePixel free a s = .ok (BitVec.ofNat 32 (leValue (s.bytesAt a s.bpp)))
      { s with trace := (s.readEvents a s.bpp).reverse ++ s.trace } := by
  rw [readDevicePixel, readBytes_calm ha hf hq]
  rfl

/-- An undisturbed device pixel is stored whole, in increasing address order: the mask does not touch the bytes that are
written (R138). -/
theorem writeDevicePixel_calm (w : Word) (hbpp : s.bpp ≤ 4) (ha : s.admitsSpan a s.bpp)
    (hf : ∀ k, k < s.bpp → free (plus a k) = false) (hq : s.quiet) :
    writeDevicePixel free a w s = .ok () (s.storeBytes a (wordBytes s.bpp w)) := by
  rw [writeDevicePixel, wordBytes_mask _ _ hbpp]
  rw [← wordBytes_length s.bpp w] at ha hf
  exact writeBytes_calm ha hf hq

end

/-! ### The commands -/

section
variable {s : State}

theorem exec_rdpix_of_format (hformat : s.formatOk = true) :
    exec .rdpix s =
      ((readDevicePixel noOverlap (s.devAddr s.xcoord s.ycoord) s).bind fun w t =>
        .ok () { t with dword := w, pix := t.unpackWord w }).finish := if_pos hformat

theorem exec_rdpix_calm (hformat : s.formatOk = true) (hq : s.quiet)
    (ha : s.admitsSpan (s.devAddr s.xcoord s.ycoord) s.bpp) :
    exec .rdpix s = .next
      { s with
        dword := s.deviceWord s.xcoord s.ycoord,
        pix := s.unpackWord (s.deviceWord s.xcoord s.ycoord),
        trace := (s.readEvents (s.devAddr s.xcoord s.ycoord) s.bpp).reverse ++ s.trace }.complete := by
  rw [exec_rdpix_of_format hformat, readDevicePixel_calm ha (fun _ _ => rfl) hq]
  rfl

theorem exec_rdpix_hung {j : Nat} (hformat : s.formatOk = true) (hq : s.quiet) (hj : j < s.bpp)
    (ha : s.admitsSpan (s.devAddr s.xcoord s.ycoord) j)
    (hhang : s.admits (plus (s.devAddr s.xcoord s.ycoord) j) = false) :
    exec .rdpix s = .next { s with
      trace := (s.readEvents (s.devAddr s.xcoord s.ycoord) j).reverse ++ s.trace,
      waiting := some (plus (s.devAddr s.xcoord s.ycoord) j) } := by
  rw [exec_rdpix_of_format hformat, readDevicePixel, readBytes_hung hj ha (fun _ _ => rfl) hq hhang]
  rfl

theorem exec_wrpix_calm (hformat : s.formatOk = true) (hq : s.quiet)
    (ha : s.admitsSpan (s.devAddr s.xcoord s.ycoord) s.bpp) :
    exec .wrpix s = .next ({ s with dword := s.packWord s.pix }.storeBytes (s.devAddr s.xcoord s.ycoord)
      (wordBytes s.bpp (s.packWord s.pix))).complete := by
  have hexec : exec .wrpix s = (writeDevicePixel noOverlap (s.devAddr s.xcoord s.ycoord) (s.packWord s.pix)
      { s with dword := s.packWord s.pix }).finish := if_pos hformat
  rw [hexec, writeDevicePixel_calm (s := { s with dword := s.packWord s.pix }) _ (bpp_le hformat).2 ha
    (fun _ _ => rfl) hq]
  rfl

end

/-- Settles O31: RDPIX is a run of reads; the word read is unpacked whole, and an unanswered byte hangs the run. -/
theorem rdpixRule : Obligations.RdpixRule := by
  refine ⟨rfl, fun s => ⟨errored_of_bad_format, fun hformat hq ha => ?_, fun j hformat hq hj ha hhang => ?_⟩⟩
  · exact ⟨_, exec_rdpix_calm hformat hq ha, complete_completed_from rfl rfl, rfl,
      fun k _ => deviceWord_byte hformat k, chan_unpackWord_deviceWord_bit hformat, rfl⟩
  · exact exec_rdpix_hung hformat hq hj ha hhang

/-- Settles O32: WRPIX stores the low bpp bytes of the packed word, and no store reaches a byte outside them. -/
theorem wrpixRule : Obligations.WrpixRule := by
  refine ⟨rfl, fun s => ⟨errored_of_bad_format, fun hformat hq ha => ⟨_, exec_wrpix_calm hformat hq ha, ?_⟩⟩⟩
  have hframe := storeBytes_frame { s with dword := s.packWord s.pix } (s.devAddr s.xcoord s.ycoord)
    (wordBytes s.bpp (s.packWord s.pix))
  have hlength := wordBytes_length s.bpp (s.packWord s.pix)
  have hdword : ({ s with dword := s.packWord s.pix }.storeBytes (s.devAddr s.xcoord s.ycoord)
      (wordBytes s.bpp (s.packWord s.pix))).complete.dword = s.packWord s.pix := by
    rw [complete_dword, hframe]
  rw [hdword]
  refine ⟨?_, ?_, fun j => packWord_contribBit_iff hformat s.pix, fun k hk => ?_, fun b hb => ?_, ?_⟩
  · exact complete_completed_from (by rw [hframe]) (by rw [hframe])
  · rw [hframe]
    rfl
  · have hwidth : (wordBytes s.bpp (s.packWord s.pix)).length ≤ 2 ^ 32 := by
      have := (bpp_le hformat).2
      omega
    exact (byteAt_storeBytes_at _ _ _ k (by rwa [hlength]) hwidth).trans (wordBytes_getD _ hk)
  · exact byteAt_storeBytes_other _ _ b _ fun k hk => (hb k (hlength ▸ hk)).symm
  · rw [complete_trace, hframe]

end Sys2Proof.Machine

/-! What FMT.VIS and the LUT leave alone (42_bitfield_packer.md R148, 43_colormap.md R154, 44_raster.md R163, R164):
engine work does not see them, so with another VIS or another LUT every access, every value and every end is the same. -/

namespace Sys2Proof.Machine

/-- The machine with another FMT and another LUT. -/
def State.withView (s : State) (f : Word) (l : Vector (Vector (BitVec 16) 256) 4) : State :=
  { s with fmt := f, lut := l }

/-- The same piece of work, the state it ends in seen through g. -/
def Run.mapState {α : Type} (g : State → State) : Run α → Run α
  | .ok a s => .ok a (g s)
  | .hung s => .hung (g s)

/-- Where o is a next state, o' is that state seen through g. -/
def Mirrors (g : State → State) (o o' : Host.Outcome State Fault Refusal) : Prop :=
  ∀ t, o = .next t → o' = .next (g t)

section
variable {g : State → State} {s : State}

/-- Work that does not see the difference, followed by work that does not see it from where the first ends. -/
theorem bind_mapState {α β : Type} {P : State → Prop} {r r' : Run α} {k k' : α → State → Run β}
    (hr : r' = r.mapState g) (hends : r.Ends P) (hk : ∀ a t, P t → k' a (g t) = (k a t).mapState g) :
    r'.bind k' = (r.bind k).mapState g := by
  subst hr
  cases r with
  | ok a t => exact hk a t hends
  | hung t => rfl

theorem forEach_mapState {α : Type} {k k' : α → State → Run Unit} (l : List α)
    (hworks : ∀ a t, (k a t).Ends (Works t)) (hk : ∀ a t, Works s t → k' a (g t) = (k a t).mapState g)
    {t : State} (ht : Works s t) : forEach k' l (g t) = (forEach k l t).mapState g := by
  induction l generalizing t with
  | nil => rfl
  | cons a rest ih => exact bind_mapState (hk a t ht) (hworks a t) fun _ u hu => ih (works_trans ht hu)

theorem mirrors_next (t : State) : Mirrors g (.next t) (.next (g t)) := by
  rintro _ ⟨⟩
  rfl

theorem mirrors_checked {c c' : Bool} {e : CmdError} {o o' : Host.Outcome State Fault Refusal} (hc : c' = c)
    (ho : Mirrors g o o') (hraise : (g s).raise e = g (s.raise e)) :
    Mirrors g (if c then o else .next (s.raise e)) (if c' then o' else .next ((g s).raise e)) := by
  rw [hc, hraise]
  split
  next => exact ho
  next => exact mirrors_next _

theorem mirrors_finish {r r' : Run Unit} (hr : r' = r.mapState g) (hcomplete : ∀ t, (g t).complete = g t.complete) :
    Mirrors g r.finish r'.finish := by
  subst hr
  cases r with
  | ok _ t =>
    rintro _ ⟨⟩
    exact congrArg Host.Outcome.next (hcomplete t)
  | hung t => exact mirrors_next t

end

section
variable {f : Word} {l : Vector (Vector (BitVec 16) 256) 4}

/-! ### The port -/

theorem portRead_withView (free : Overlap) (a : Word) (s : State) :
    portRead free a (s.withView f l) = (portRead free a s).mapState (·.withView f l) := by
  unfold portRead
  rw [show (s.withView f l).admits = s.admits from rfl, show (s.withView f l).displaced = s.displaced from rfl]
  split
  · split
    · rfl
    · split <;> rfl
  · rfl

theorem portWrite_withView (free : Overlap) (a : Word) (v : Byte) (s : State) :
    portWrite free a v (s.withView f l) = (portWrite free a v s).mapState (·.withView f l) := by
  unfold portWrite
  rw [show (s.withView f l).admits = s.admits from rfl, show (s.withView f l).displaced = s.displaced from rfl]
  split
  · split
    · rfl
    · split <;> rfl
  · rfl

theorem readBytes_withView (free : Overlap) (n : Nat) (a : Word) (s : State) :
    readBytes free n a (s.withView f l) = (readBytes free n a s).mapState (·.withView f l) := by
  induction n generalizing a s with
  | zero => rfl
  | succ n ih =>
    refine bind_mapState (portRead_withView free a s) (portRead_works free a s) fun b t _ => ?_
    exact bind_mapState (ih (a + 1) t) (readBytes_works free n (a + 1) t) fun _ _ _ => rfl

theorem writeBytes_withView (free : Overlap) (bs : List Byte) (a : Word) (s : State) :
    writeBytes free a bs (s.withView f l) = (writeBytes free a bs s).mapState (·.withView f l) := by
  induction bs generalizing a s with
  | nil => rfl
  | cons b bs ih =>
    exact bind_mapState (portWrite_withView free a b s) (portWrite_works free a b s) fun _ t _ => ih (a + 1) t

theorem decodeAt_withView (free : Overlap) (a : Word) (m : Nat) (s : State) :
    decodeAt free a m (s.withView f l) = (decodeAt free a m s).mapState (·.withView f l) :=
  bind_mapState (readBytes_withView free _ a s) (readBytes_works free _ a s) fun _ _ _ => rfl

theorem encodeAt_withView (free : Overlap) (a p : Word) (s : State) :
    encodeAt free a p (s.withView f l) = (encodeAt free a p s).mapState (·.withView f l) :=
  writeBytes_withView free _ a s

/-! ### Device pixels: of FMT they see BPP only -/

theorem works_withView_bpp {s t : State} (hbpp : (s.withView f l).bpp = s.bpp) (ht : Works s t) :
    (t.withView f l).bpp = t.bpp := by
  rw [works_bpp ht]
  exact hbpp

section
variable {s : State} (hbpp : (s.withView f l).bpp = s.bpp)
include hbpp

theorem addressOf_withView : (s.withView f l).addressOf = s.addressOf := by
  funext x y
  rw [State.addressOf, hbpp]
  rfl

theorem devAddr_withView : (s.withView f l).devAddr = s.devAddr := by
  funext x y
  rw [State.devAddr, addressOf_withView hbpp]
  rfl

theorem unpackWord_withView : (s.withView f l).unpackWord = s.unpackWord := by
  funext w
  simp only [State.unpackWord, hbpp]
  rfl

theorem inDevice_withView : (s.withView f l).inDevice = s.inDevice := by
  funext a
  simp only [State.inDevice, devAddr_withView hbpp, hbpp]
  rfl

theorem readDevicePixel_withView (free : Overlap) (a : Word) :
    readDevicePixel free a (s.withView f l) = (readDevicePixel free a s).mapState (·.withView f l) := by
  rw [readDevicePixel, hbpp]
  exact bind_mapState (readBytes_withView free _ a s) (readBytes_works free _ a s) fun _ _ _ => rfl

theorem writeDevicePixel_withView (free : Overlap) (a w : Word) :
    writeDevicePixel free a w (s.withView f l) = (writeDevicePixel free a w s).mapState (·.withView f l) := by
  rw [writeDevicePixel, hbpp]
  exact writeBytes_withView free _ a s

theorem todevPixel_withView (free : Overlap) (xy : Nat × Nat) :
    todevPixel free xy (s.withView f l) = (todevPixel free xy s).mapState (·.withView f l) := by
  have hat : Works s (s.atPixel xy) := works_of_eq rfl
  refine bind_mapState (decodeAt_withView free _ _ (s.atPixel xy)) (decodeAt_works free _ _ _) fun p t ht => ?_
  have ht' : Works s { t with pix := p, dword := t.packWord p } :=
    works_trans (works_trans hat ht) (works_of_eq rfl)
  rw [devAddr_withView (works_withView_bpp hbpp (works_trans hat ht))]
  exact writeDevicePixel_withView (works_withView_bpp hbpp ht') free _ _

theorem fromdevPixel_withView (free : Overlap) (xy : Nat × Nat) :
    fromdevPixel free xy (s.withView f l) = (fromdevPixel free xy s).mapState (·.withView f l) := by
  have hat : Works s (s.atPixel xy) := works_of_eq rfl
  rw [fromdevPixel, devAddr_withView hbpp]
  refine bind_mapState (readDevicePixel_withView (works_withView_bpp hbpp hat) free _)
    (readDevicePixel_works free _ _) fun w t ht => ?_
  rw [unpackWord_withView (works_withView_bpp hbpp (works_trans hat ht))]
  exact encodeAt_withView free (t.outAddr xy.1 xy.2) _ { t with dword := w, pix := t.unpackWord w }

end

/-! ### The commands -/

section
variable {s : State} (hformat : (s.withView f l).formatOk = s.formatOk) (hbpp : (s.withView f l).bpp = s.bpp)

theorem execDecode_withView : Mirrors (·.withView f l) (execDecode s) (execDecode (s.withView f l)) :=
  mirrors_checked rfl
    (mirrors_finish (bind_mapState (decodeAt_withView _ _ _ s) (decodeAt_works _ _ _ s) fun _ _ _ => rfl)
      fun _ => rfl)
    rfl

/-- A pass visits the same pixels and ends alike, when no pixel of it sees the difference (R160). -/
theorem pass_withView {pixel : Nat × Nat → State → Run Unit} (hworks : ∀ xy t, (pixel xy t).Ends (Works t))
    (hpixel : ∀ xy t, Works s t → pixel xy (t.withView f l) = (pixel xy t).mapState (·.withView f l)) :
    Mirrors (·.withView f l)
      ((forEach pixel (rasterOrder s.width s.height) s).bind fun _ t => .ok () t.passDone).finish
      ((forEach pixel (rasterOrder s.width s.height) (s.withView f l)).bind fun _ t => .ok () t.passDone).finish :=
  mirrors_finish
    (bind_mapState (forEach_mapState (g := (·.withView f l)) _ hworks hpixel (works_refl s)) (forEach_works hworks _ s)
      fun _ _ _ => rfl)
    fun _ => rfl

include hformat hbpp

theorem execRdpix_withView : Mirrors (·.withView f l) (execRdpix s) (execRdpix (s.withView f l)) := by
  refine mirrors_checked hformat (mirrors_finish ?_ fun _ => rfl) rfl
  rw [devAddr_withView hbpp]
  refine bind_mapState (readDevicePixel_withView hbpp _ _) (readDevicePixel_works _ _ s) fun w t ht => ?_
  rw [unpackWord_withView (works_withView_bpp hbpp ht)]
  rfl

theorem execWrpix_withView : Mirrors (·.withView f l) (execWrpix s) (execWrpix (s.withView f l)) := by
  refine mirrors_checked hformat (mirrors_finish ?_ fun _ => rfl) rfl
  rw [devAddr_withView hbpp]
  exact writeDevicePixel_withView (s := { s with dword := s.packWord s.pix }) hbpp _ _ _

theorem execTodev_withView : Mirrors (·.withView f l) (execTodev s) (execTodev (s.withView f l)) := by
  have hoverlap : (s.withView f l).todevOverlap = s.todevOverlap := by
    funext a
    simp only [State.todevOverlap, inDevice_withView hbpp]
    rfl
  refine mirrors_checked hformat (mirrors_checked rfl ?_ rfl) rfl
  rw [hoverlap]
  exact pass_withView (todevPixel_works _) fun xy _ ht => todevPixel_withView (works_withView_bpp hbpp ht) _ xy

theorem execFromdev_withView : Mirrors (·.withView f l) (execFromdev s) (execFromdev (s.withView f l)) := by
  have hoverlap : (s.withView f l).fromdevOverlap = s.fromdevOverlap := by
    funext a
    simp only [State.fromdevOverlap, inDevice_withView hbpp]
    rfl
  refine mirrors_checked hformat ?_ rfl
  rw [hoverlap]
  exact pass_withView (fromdevPixel_works _) fun xy _ ht => fromdevPixel_withView (works_withView_bpp hbpp ht) _ xy

/-- Of FMT a command other than RAMP sees BPP and whether the format is legal; of the LUT, a command other than RAMP,
LUTWR and LUTRD sees nothing (R148, R154). -/
theorem exec_withView {i : Instr} (hramp : i ≠ .ramp) (hlut : ∀ c k, i ≠ .lutwr c k ∧ i ≠ .lutrd c k) :
    Mirrors (·.withView f l) (exec i s) (exec i (s.withView f l)) := by
  cases i with
  | nop => exact mirrors_next s.complete
  | validate => exact mirrors_checked hformat (mirrors_next s.complete) rfl
  | decode => exact execDecode_withView
  | encode => exact mirrors_finish (encodeAt_withView _ _ _ s) fun _ => rfl
  | extract c => exact mirrors_checked hformat (mirrors_next { s with res := _ }.complete) rfl
  | pack c => exact mirrors_checked hformat (mirrors_next { s with res := _ }.complete) rfl
  | extw =>
    refine mirrors_checked hformat ?_ rfl
    rw [unpackWord_withView hbpp]
    exact mirrors_next { s with pix := _ }.complete
  | packw => exact mirrors_checked hformat (mirrors_next { s with dword := _ }.complete) rfl
  | addr =>
    refine mirrors_checked hformat ?_ rfl
    rw [addressOf_withView hbpp]
    exact mirrors_next { s with res := _ }.complete
  | rdpix => exact execRdpix_withView hformat hbpp
  | wrpix => exact execWrpix_withView hformat hbpp
  | ramp => exact absurd rfl hramp
  | lutwr c k => exact absurd rfl (hlut c k).1
  | lutrd c k => exact absurd rfl (hlut c k).2
  | todev => exact execTodev_withView hformat hbpp
  | fromdev => exact execFromdev_withView hformat hbpp

end
end

/-- Settles O36: LUTWR and LUTRD read no FMT at all, and every other command keeps the LUT it does not see. -/
theorem visualKindIrrelevant : Obligations.VisualKindIrrelevant := by
  intro i s f hramp hlegal hlegal' hbpp t hexec
  have hformat : (s.withView f s.lut).formatOk = s.formatOk := hlegal'.trans hlegal.symm
  cases i with
  | ramp => exact absurd rfl hramp
  | lutwr c k | lutrd c k =>
    cases hexec
    rfl
  | _ =>
    obtain ⟨_, _, _, hkept, _⟩ := whoWritesWhat _ s t hexec
    have hlut : t.lut = s.lut := hkept (by simp) (by simp)
    have hview : t.withView f s.lut = { t with fmt := f } := by
      rw [← hlut]
      rfl
    exact (exec_withView hformat hbpp hramp (by simp) t hexec).trans (congrArg Host.Outcome.next hview)

end Sys2Proof.Machine

/-! The colormap (43_colormap.md): the values of the ramp, each entry of the LUT after RAMP, and the commands that write
and read it, apart from which no command sees it. -/

namespace Sys2Proof.Machine

/-! ### The values of the ramp (R150) -/

/-- An index of the ramp is at most its last one, so the quotient is at most 65535 and no bit of it is cut. -/
theorem rampEntry_toNat {L i : Nat} (hi : i < 2 ^ L) : (rampEntry L i).toNat = i * 65535 / (2 ^ L - 1) := by
  have hlast : i * 65535 ≤ (2 ^ L - 1) * 65535 := by omega
  have hquotient : i * 65535 / (2 ^ L - 1) ≤ 65535 := Nat.div_le_of_le_mul hlast
  rw [rampEntry, BitVec.toNat_ofNat, Nat.mod_eq_of_lt (by omega)]

theorem rampEntry_zero (L : Nat) : rampEntry L 0 = 0 := by simp [rampEntry]

theorem rampEntry_last {L : Nat} (hL : 1 ≤ L) : (rampEntry L (2 ^ L - 1)).toNat = 65535 := by
  have htwo : 2 ^ 1 ≤ 2 ^ L := Nat.pow_le_pow_right (by decide) hL
  rw [rampEntry_toNat (by omega), Nat.mul_div_cancel_left _ (by omega)]

/-- 65535 is 257 times 255, the last index of the ramp of width 8. -/
theorem rampEntry_eight {i : Nat} (hi : i < 256) : (rampEntry 8 i).toNat = 257 * i := by
  rw [rampEntry_toNat (by omega)]
  omega

/-! ### The LUT after RAMP (R151) -/

@[simp] theorem channelOfNat_toFin (c : Channel) : channelOfNat (Channel.toFin c) = c := by cases c <;> rfl

/-- Entry k of the table RAMP writes for channel c. -/
theorem rampTable_get (s : State) (c : Channel) (k : BitVec 8) :
    (s.rampTable c).get k.toFin =
      if 1 ≤ s.wid c ∧ k.toNat < 2 ^ s.wid c then rampEntry (s.wid c) k.toNat else s.lutEntry c k := by
  unfold State.rampTable
  by_cases hwid : 1 ≤ s.wid c
  · rw [if_pos hwid]
    refine (tabulate_get _ k.toFin).trans ?_
    simp [hwid]
  · simp [hwid, State.lutEntry]

theorem rampLut_lutEntry (s : State) (c : Channel) (k : BitVec 8) :
    s.rampLut.lutEntry c k =
      if 1 ≤ s.wid c ∧ k.toNat < 2 ^ s.wid c then rampEntry (s.wid c) k.toNat else s.lutEntry c k := by
  rw [State.lutEntry, rampLut_lut, tabulate_get, channelOfNat_toFin, rampTable_get]

/-- Settles O37: the quotients by cases of their arguments; a channel of width 0 keeps its table. -/
theorem rampValues : Obligations.RampValues := by
  refine ⟨fun _ _ _ _ hi => rampEntry_toNat hi, fun L hL _ => ⟨rampEntry_zero L, rampEntry_last hL⟩,
    fun _ hi => rampEntry_eight hi, fun s c k hwid => ?_⟩
  rw [rampLut_lutEntry, if_neg (by omega)]

/-! ### The commands -/

section
variable {s : State}

theorem exec_ramp_of_format (hformat : s.formatOk = true) :
    exec .ramp s = if isDirect s.vis then .next s.rampLut.complete else .next (s.raise .kind) := if_pos hformat

theorem exec_ramp_indexed (hformat : s.formatOk = true) (hvis : s.vis = 3 ∨ s.vis = 5) :
    exec .ramp s = .next (s.raise .kind) := by
  rw [exec_ramp_of_format hformat]
  rcases hvis with hvis | hvis <;> rw [hvis] <;> rfl

theorem exec_ramp_direct (hformat : s.formatOk = true) (hvis : s.vis = 2 ∨ s.vis = 4) :
    exec .ramp s = .next s.rampLut.complete := by
  rw [exec_ramp_of_format hformat]
  rcases hvis with hvis | hvis <;> rw [hvis] <;> rfl

end

/-- Settles O38: FORMAT comes before KIND, and a direct kind leaves `rampLut`. -/
theorem rampRule : Obligations.RampRule := by
  refine ⟨rfl, fun s => ⟨errored_of_bad_format, fun hformat hvis => ?_, fun hformat hvis => ?_⟩⟩
  · exact ⟨_, exec_ramp_indexed hformat hvis, raise_errored .kind s⟩
  · exact ⟨_, exec_ramp_direct hformat hvis, complete_completed_from rfl rfl, rfl, rampLut_lutEntry s⟩

/-- Settles O39: LUTWR leaves `setLut` of the low half of LDATA, whatever the format. -/
theorem lutwrRule : Obligations.LutwrRule := by
  refine fun c k => ⟨rfl, fun s => ⟨_, rfl, complete_completed_from rfl rfl, rfl, ?_, fun d j hne => ?_⟩⟩
  · have hentry : (s.setLut c k s.ldataEntry).lutEntry c k = s.ldataEntry := by simp [setLut_lutEntry]
    exact (congrArg BitVec.toNat hentry).trans (lowHalf_toNat s.ldata)
  · exact (setLut_lutEntry s c k s.ldataEntry d j).trans (if_neg hne)

/-- Settles O40: a LUT entry has 16 bits, so RES holds all of it. -/
theorem lutrdRule : Obligations.LutrdRule := by
  refine fun c k => ⟨rfl, fun s => ⟨_, rfl, complete_completed_from rfl rfl, rfl, ?_⟩⟩
  exact BitVec.toNat_setWidth_of_le (by decide)

/-- Settles O41: who changes the LUT is a clause of `whoWritesWhat`, and a run with another LUT is a run of the machine
with another view, FMT being the same. -/
theorem lutIsolated : Obligations.LutIsolated := by
  constructor
  · intro i s t hramp hlutwr hexec
    obtain ⟨_, _, _, hkept, _⟩ := whoWritesWhat i s t hexec
    exact hkept hlutwr hramp
  · intro i s t l hramp hlut hexec
    obtain ⟨_, _, _, _, _, _, _, hfmt, _⟩ := whoWritesWhat i s t hexec
    have hview : t.withView s.fmt l = { t with lut := l } := by
      rw [← hfmt]
      rfl
    exact (exec_withView rfl rfl hramp hlut t hexec).trans (congrArg Host.Outcome.next hview)

end Sys2Proof.Machine

/-! The raster passes (44_raster.md): the visiting order, and what a pass leaves when nothing disturbs it. TODEV and
FROMDEV share one shape: each pixel reads bytes of the source, leaves two registers, and stores bytes of the
destination. -/

namespace Sys2Proof.Machine

/-! ### The visiting order (R160) -/

theorem mem_rasterOrder_iff {w h x y : Nat} : (x, y) ∈ rasterOrder w h ↔ x < w ∧ y < h := by
  refine ⟨fun hxy => mem_rasterOrder hxy, fun ⟨hx, hy⟩ => ?_⟩
  exact List.mem_flatMap.2 ⟨y, List.mem_range.2 hy, List.mem_map.2 ⟨x, List.mem_range.2 hx, rfl⟩⟩

/-- Columns rise within a row, and every row comes before the next ones. -/
theorem rasterOrder_pairwise_before (w h : Nat) :
    (rasterOrder w h).Pairwise fun p q => before p.1 p.2 q.1 q.2 := by
  refine List.pairwise_flatMap.2 ⟨fun y _ => ?_, List.pairwise_lt_range.imp fun {y y'} hrows p hp q hq => ?_⟩
  · exact List.pairwise_map.2 (List.pairwise_lt_range.imp fun hcolumns => .inr ⟨rfl, hcolumns⟩)
  · obtain ⟨_, _, rfl⟩ := List.mem_map.1 hp
    obtain ⟨_, _, rfl⟩ := List.mem_map.1 hq
    exact .inl hrows

theorem rasterOrder_length (w h : Nat) : (rasterOrder w h).length = w * h := by
  simp [rasterOrder, Nat.mul_comm]

/-- Settles O42: membership, order and length of the rows set one after another. -/
theorem rasterOrderRowMajor : Obligations.RasterOrderRowMajor := fun w h =>
  ⟨fun _ _ => mem_rasterOrder_iff, rasterOrder_pairwise_before w h, rasterOrder_length w h⟩

theorem rasterOrder_eq_nil {w h : Nat} (hempty : w = 0 ∨ h = 0) : rasterOrder w h = [] := by
  rw [← List.length_eq_zero_iff, rasterOrder_length]
  exact Nat.mul_eq_zero.2 hempty

/-- A raster that is not empty ends with its last column of its last row. -/
theorem exists_rasterOrder_eq_concat {w h : Nat} (hw : 0 < w) (hh : 0 < h) :
    ∃ init, rasterOrder w h = init ++ [(w - 1, h - 1)] := by
  obtain ⟨w, rfl⟩ := Nat.exists_eq_succ_of_ne_zero hw.ne'
  obtain ⟨h, rfl⟩ := Nat.exists_eq_succ_of_ne_zero hh.ne'
  refine ⟨rasterOrder (w + 1) h ++ (List.range w).map fun x => (x, h), ?_⟩
  simp [rasterOrder, List.range_succ (n := h), List.range_succ (n := w)]

/-- The pixels visited after one pixel are those it is before. -/
theorem exists_rasterOrder_split {w h x y : Nat} (hx : x < w) (hy : y < h) :
    ∃ earlier later, rasterOrder w h = earlier ++ (x, y) :: later ∧
      ∀ q ∈ later, (q.1 < w ∧ q.2 < h) ∧ before x y q.1 q.2 := by
  obtain ⟨earlier, later, hsplit⟩ := List.append_of_mem (mem_rasterOrder_iff.2 ⟨hx, hy⟩)
  have hpairwise := rasterOrder_pairwise_before w h
  rw [hsplit, List.pairwise_append, List.pairwise_cons] at hpairwise
  obtain ⟨_, ⟨hlater, _⟩, _⟩ := hpairwise
  refine ⟨earlier, later, hsplit, fun q hq => ⟨mem_rasterOrder ?_, hlater q hq⟩⟩
  simp [hsplit, hq]

/-! ### The work of one pixel -/

/-- What one undisturbed pixel of a pass comes to: its read events, what it leaves in PIX and DWORD, and the bytes it
stores at `dst`. -/
structure PixelWork where
  reads : List MemEvent
  pix : Word
  dword : Word
  dst : Word
  bytes : List Byte

/-- The byte events of a pixel: its reads, then its writes (R75). -/
def PixelWork.events (w : PixelWork) : List MemEvent := w.reads ++ writeEvents w.dst w.bytes

/-- A pixel stores a byte at a. -/
def PixelWork.Stores (w : PixelWork) (a : Word) : Prop := ∃ k, k < w.bytes.length ∧ plus w.dst k = a

/-- The state when the pixel xy has read its bytes and stored none. -/
def State.readPixel (t : State) (xy : Nat × Nat) (w : PixelWork) : State :=
  { t.atPixel xy with pix := w.pix, dword := w.dword, trace := w.reads.reverse ++ t.trace }

/-- The state after the work w of pixel xy. -/
def State.doPixel (t : State) (xy : Nat × Nat) (w : PixelWork) : State := (t.readPixel xy w).storeBytes w.dst w.bytes

/-- The state after the work of each pixel of the list, in its order. -/
def State.doPixels (t : State) (work : Nat × Nat → PixelWork) (l : List (Nat × Nat)) : State :=
  l.foldl (fun u xy => u.doPixel xy (work xy)) t

/-- Where a pass that did the work of every pixel ends. -/
def State.afterPass (s : State) (work : Nat × Nat → PixelWork) : State :=
  (s.doPixels work (rasterOrder s.width s.height)).passDone.complete

/-- Undisturbed pixels take s to t: they use no free value and leave no access unanswered. -/
def PixelFrame (s t : State) : Prop :=
  t = { s with pix := t.pix, dword := t.dword, mem := t.mem, trace := t.trace, curX := t.curX, curY := t.curY }

theorem pixelFrame_trans {s t u : State} (hst : PixelFrame s t) (htu : PixelFrame t u) : PixelFrame s u := by
  unfold PixelFrame at hst htu ⊢
  rw [htu, hst]

theorem works_of_pixelFrame {s t : State} (h : PixelFrame s t) : Works s t := works_of_eq h

section
variable (t : State) (xy : Nat × Nat) (w : PixelWork)

theorem readPixel_works : Works t (t.readPixel xy w) := works_of_eq rfl

theorem doPixel_eq :
    t.doPixel xy w =
      { t.atPixel xy with
        pix := w.pix, dword := w.dword, mem := (t.doPixel xy w).mem, trace := w.events.reverse ++ t.trace } := by
  rw [PixelWork.events, List.reverse_append, List.append_assoc]
  exact storeBytes_frame _ _ _

theorem doPixel_frame : PixelFrame t (t.doPixel xy w) := by
  unfold PixelFrame
  rw [doPixel_eq]
  rfl

theorem doPixel_trace : (t.doPixel xy w).trace = w.events.reverse ++ t.trace := by rw [doPixel_eq]

theorem doPixel_pix : (t.doPixel xy w).pix = w.pix := by rw [doPixel_eq]

theorem doPixel_dword : (t.doPixel xy w).dword = w.dword := by rw [doPixel_eq]

variable {t xy w}

theorem byteAt_doPixel_other {a : Word} (ha : ¬ w.Stores a) : (t.doPixel xy w).byteAt a = t.byteAt a :=
  byteAt_storeBytes_other _ _ _ _ fun k hk hka => ha ⟨k, hk, hka⟩

theorem byteAt_doPixel_at {k : Nat} (hk : k < w.bytes.length) (hlength : w.bytes.length ≤ 2 ^ 32) :
    (t.doPixel xy w).byteAt (plus w.dst k) = w.bytes.getD k 0 :=
  byteAt_storeBytes_at _ _ _ _ hk hlength

end

/-! ### The work of a list of pixels -/

section
variable {t : State} {work : Nat × Nat → PixelWork} {l : List (Nat × Nat)}

theorem doPixels_append (later : List (Nat × Nat)) :
    t.doPixels work (l ++ later) = (t.doPixels work l).doPixels work later :=
  List.foldl_append

theorem doPixels_frame : PixelFrame t (t.doPixels work l) := by
  induction l generalizing t with
  | nil => rfl
  | cons xy rest ih => exact pixelFrame_trans (doPixel_frame t xy (work xy)) ih

theorem doPixels_trace :
    (t.doPixels work l).trace = (l.flatMap fun xy => (work xy).events).reverse ++ t.trace := by
  induction l generalizing t with
  | nil => rfl
  | cons xy rest ih =>
    refine ih.trans ?_
    rw [doPixel_trace, List.flatMap_cons, List.reverse_append, List.append_assoc]

/-- A byte that no pixel of the list stores reads as before. -/
theorem byteAt_doPixels_other {a : Word} (ha : ∀ xy ∈ l, ¬ (work xy).Stores a) :
    (t.doPixels work l).byteAt a = t.byteAt a := by
  induction l generalizing t with
  | nil => rfl
  | cons xy rest ih =>
    rw [List.forall_mem_cons] at ha
    exact (ih ha.2).trans (byteAt_doPixel_other ha.1)

/-- A byte holds what the last pixel that stores it put there. -/
theorem byteAt_doPixels_last_store {earlier later : List (Nat × Nat)} {xy : Nat × Nat} {k : Nat}
    (hl : l = earlier ++ xy :: later) (hk : k < (work xy).bytes.length)
    (hlength : (work xy).bytes.length ≤ 2 ^ 32)
    (hlater : ∀ q ∈ later, ¬ (work q).Stores (plus (work xy).dst k)) :
    (t.doPixels work l).byteAt (plus (work xy).dst k) = (work xy).bytes.getD k 0 := by
  rw [hl, doPixels_append]
  exact (byteAt_doPixels_other hlater).trans (byteAt_doPixel_at hk hlength)

/-- Pixels that each do their work while the source reads as it did in s, and store no byte of it, do the work of the
whole list. -/
theorem forEach_eq_doPixels {s : State} {pixel : Nat × Nat → State → Run Unit} {src : Word → Bool}
    (hpixel : ∀ xy ∈ l, ∀ u, Works s u → (∀ a, src a = true → u.byteAt a = s.byteAt a) →
      pixel xy u = .ok () (u.doPixel xy (work xy)))
    (happart : ∀ xy ∈ l, ∀ a, src a = true → ¬ (work xy).Stores a)
    (ht : Works s t) (hsrc : ∀ a, src a = true → t.byteAt a = s.byteAt a) :
    forEach pixel l t = .ok () (t.doPixels work l) := by
  induction l generalizing t with
  | nil => rfl
  | cons xy rest ih =>
    rw [List.forall_mem_cons] at hpixel happart
    rw [forEach, hpixel.1 t ht hsrc]
    refine ih hpixel.2 happart.2 (works_trans ht (works_of_pixelFrame (doPixel_frame t xy (work xy)))) fun a ha => ?_
    exact (byteAt_doPixel_other (happart.1 a ha)).trans (hsrc a ha)

end

/-! ### The end of a pass -/

section
variable (s : State) (work : Nat × Nat → PixelWork)

theorem afterPass_completed : Completed s (s.afterPass work) := by
  have hworks : Works s (s.doPixels work (rasterOrder s.width s.height)).passDone :=
    works_trans (works_of_pixelFrame doPixels_frame) (works_of_eq rfl)
  exact complete_completed_from (works_status hworks) (works_ctrl hworks)

theorem afterPass_frame :
    s.afterPass work =
      { s with
        pix := (s.afterPass work).pix, dword := (s.afterPass work).dword, mem := (s.afterPass work).mem,
        trace := (s.afterPass work).trace, curX := (s.afterPass work).curX, curY := (s.afterPass work).curY,
        status := (s.afterPass work).status, eng := (s.afterPass work).eng, irq := (s.afterPass work).irq,
        races := [] } := by
  have hframe : PixelFrame s (s.doPixels work (rasterOrder s.width s.height)) := doPixels_frame
  unfold State.afterPass
  rw [hframe]
  rfl

theorem afterPass_trace :
    (s.afterPass work).trace =
      ((rasterOrder s.width s.height).flatMap fun xy => (work xy).events).reverse ++ s.trace := doPixels_trace

variable {s work}

/-- The last pixel of the raster leaves PIX and DWORD. -/
theorem afterPass_last (hw : 0 < s.width) (hh : 0 < s.height) :
    (s.afterPass work).pix = (work (s.width - 1, s.height - 1)).pix ∧
      (s.afterPass work).dword = (work (s.width - 1, s.height - 1)).dword := by
  obtain ⟨init, hinit⟩ := exists_rasterOrder_eq_concat hw hh
  unfold State.afterPass
  rw [hinit, doPixels_append]
  exact ⟨doPixel_pix _ _ _, doPixel_dword _ _ _⟩

theorem afterPass_empty (hempty : s.width = 0 ∨ s.height = 0) :
    (s.afterPass work).pix = s.pix ∧ (s.afterPass work).dword = s.dword ∧ (s.afterPass work).mem = s.mem := by
  unfold State.afterPass
  rw [rasterOrder_eq_nil hempty]
  exact ⟨rfl, rfl, rfl⟩

/-- A byte outside a region that holds every stored byte reads as before the pass. -/
theorem byteAt_afterPass_outside {dst : Word → Bool} {a : Word}
    (hdst : ∀ xy ∈ rasterOrder s.width s.height, ∀ b, (work xy).Stores b → dst b = true) (ha : dst a = false) :
    (s.afterPass work).byteAt a = s.byteAt a := by
  refine byteAt_doPixels_other fun xy hxy hstores => ?_
  simp [hdst xy hxy a hstores] at ha

/-- A byte holds what the last pixel of the pass that stores it put there. -/
theorem byteAt_afterPass_last_store {x y k : Nat} (hx : x < s.width) (hy : y < s.height)
    (hk : k < (work (x, y)).bytes.length) (hlength : (work (x, y)).bytes.length ≤ 2 ^ 32)
    (hlater : ∀ x' y', x' < s.width → y' < s.height → before x y x' y' →
      ¬ (work (x', y')).Stores (plus (work (x, y)).dst k)) :
    (s.afterPass work).byteAt (plus (work (x, y)).dst k) = (work (x, y)).bytes.getD k 0 := by
  obtain ⟨_, later, hsplit, hbefore⟩ := exists_rasterOrder_split hx hy
  refine byteAt_doPixels_last_store hsplit hk hlength fun q hq => ?_
  obtain ⟨⟨hqx, hqy⟩, hq⟩ := hbefore q hq
  exact hlater q.1 q.2 hqx hqy hq

end

/-! ### A pass that nothing disturbs -/

/-- No host store races with a pass that reads src and writes dst, the two share no byte, and every access is answered
(R72, R77, R81). -/
structure CalmPass (s : State) (src dst : Word → Bool) : Prop where
  quiet : s.quiet
  apart : ∀ a, src a = true → dst a = false
  answered : ∀ a, src a = true ∨ dst a = true → s.admits a = true

theorem CalmPass.no_overlap {s : State} {src dst : Word → Bool} (h : CalmPass s src dst) (a : Word) :
    (dst a && src a) = false := by
  cases hsrc : src a with
  | false => simp
  | true => simp [h.apart a hsrc]

/-- Bytes that the pass reads or writes are answered, wherever the pass stands. -/
theorem CalmPass.admitsSpan {s u : State} {src dst : Word → Bool} (h : CalmPass s src dst) (hu : Works s u) {a : Word}
    {n : Nat} (hin : ∀ k, k < n → src (plus a k) = true ∨ dst (plus a k) = true) : u.admitsSpan a n := fun k hk =>
  (congrFun (works_admits hu) _).trans (h.answered _ (hin k hk))

/-- A calm pass whose pixels each do their work on the source as it was does the work of the raster. -/
theorem calmPass_finish {s : State} {src dst : Word → Bool} {pixel : Nat × Nat → State → Run Unit}
    {work : Nat × Nat → PixelWork} (hcalm : CalmPass s src dst)
    (hdst : ∀ xy ∈ rasterOrder s.width s.height, ∀ a, (work xy).Stores a → dst a = true)
    (hpixel : ∀ xy ∈ rasterOrder s.width s.height, ∀ u, Works s u →
      (∀ a, src a = true → u.byteAt a = s.byteAt a) → pixel xy u = .ok () (u.doPixel xy (work xy))) :
    ((forEach pixel (rasterOrder s.width s.height) s).bind fun _ t => .ok () t.passDone).finish =
      .next (s.afterPass work) := by
  rw [forEach_eq_doPixels hpixel (fun xy hxy a ha hstores => ?_) (works_refl s) fun _ _ => rfl]
  · rfl
  · have hin := hdst xy hxy a hstores
    simp [hcalm.apart a ha] at hin

section
variable {s t : State} {a : Word} {n : Nat}

theorem bytesAt_congr (h : ∀ k, k < n → t.byteAt (plus a k) = s.byteAt (plus a k)) :
    t.bytesAt a n = s.bytesAt a n :=
  List.map_congr_left fun k hk => h k (List.mem_range.1 hk)

theorem readEvents_congr (h : ∀ k, k < n → t.byteAt (plus a k) = s.byteAt (plus a k)) :
    t.readEvents a n = s.readEvents a n :=
  List.map_congr_left fun k hk => congrArg (MemEvent.read (plus a k)) (h k (List.mem_range.1 hk))

end

/-! ### TODEV -/

theorem imgAddr_column (s : State) (x y : Nat) :
    s.imgAddr x y = plus (s.imgAddr 0 y) (x * (3 * sampleWidth s.maxv)) := by
  simp only [State.imgAddr, plus, BitVec.ofNat_add, BitVec.ofNat_toNat, BitVec.setWidth_eq, Nat.zero_mul,
    Nat.add_zero, Nat.mul_assoc]

/-- The bytes of an image triplet of the pass are in the pass's image region (R213). -/
theorem inImage_of_pixel {s : State} {x y k : Nat} (hx : x < s.width) (hy : y < s.height)
    (hk : k < 3 * sampleWidth s.maxv) : s.inImage (plus (s.imgAddr x y) k) = true := by
  refine List.any_eq_true.2 ⟨y, List.mem_range.2 hy,
    (inSpan_iff _ _ _).2 ⟨x * (3 * sampleWidth s.maxv) + k, (lt_mul_iff_split _ _ _).2 ⟨x, k, hx, hk, rfl⟩, ?_⟩⟩
  rw [imgAddr_column, plus_plus]

/-- The work of a pixel of TODEV, on the image as it is in s (R163). -/
def State.todevWork (s : State) (xy : Nat × Nat) : PixelWork where
  reads := s.readEvents (s.imgAddr xy.1 xy.2) (3 * sampleWidth s.maxv)
  pix := s.imagePixel xy.1 xy.2
  dword := s.packWord (s.imagePixel xy.1 xy.2)
  dst := s.devAddr xy.1 xy.2
  bytes := wordBytes s.bpp (s.packWord (s.imagePixel xy.1 xy.2))

theorem todevWork_stores_iff {s : State} {xy : Nat × Nat} {a : Word} :
    (s.todevWork xy).Stores a ↔ ∃ k, k < s.bpp ∧ plus (s.devAddr xy.1 xy.2) k = a := by
  simp [PixelWork.Stores, State.todevWork, wordBytes_length]

section
variable {s : State}

theorem inDevice_of_todevWork {xy : Nat × Nat} (hxy : xy ∈ rasterOrder s.width s.height) {a : Word}
    (ha : (s.todevWork xy).Stores a) : s.inDevice a = true := by
  obtain ⟨hx, hy⟩ := mem_rasterOrder hxy
  obtain ⟨k, hk, rfl⟩ := todevWork_stores_iff.1 ha
  exact inDevice_of_pixel hx hy hk

/-- A pixel of a calm TODEV: one run of reads of the image as it was in s, then one run of writes. -/
theorem todevPixel_calm (hformat : s.formatOk = true) (hcalm : CalmPass s s.inImage s.inDevice) {xy : Nat × Nat}
    (hxy : xy ∈ rasterOrder s.width s.height) {u : State} (hu : Works s u)
    (himage : ∀ a, s.inImage a = true → u.byteAt a = s.byteAt a) :
    todevPixel s.todevOverlap xy u = .ok () (u.doPixel xy (s.todevWork xy)) := by
  obtain ⟨hx, hy⟩ := mem_rasterOrder hxy
  have hsrc (k : Nat) (hk : k < 3 * sampleWidth s.maxv) : s.inImage (plus (s.imgAddr xy.1 xy.2) k) = true :=
    inImage_of_pixel hx hy hk
  have hat : Works s (u.atPixel xy) := works_trans hu (works_of_eq rfl)
  have hsame (k : Nat) (hk : k < 3 * sampleWidth s.maxv) :
      (u.atPixel xy).byteAt (plus (s.imgAddr xy.1 xy.2) k) = s.byteAt (plus (s.imgAddr xy.1 xy.2) k) :=
    himage _ (hsrc k hk)
  have hread : todevPixel s.todevOverlap xy u =
      writeDevicePixel s.todevOverlap (s.devAddr xy.1 xy.2) (s.packWord (s.imagePixel xy.1 xy.2))
        (u.readPixel xy (s.todevWork xy)) := by
    rw [todevPixel, works_imgAddr hu, works_maxv hu,
      decodeAt_calm (hcalm.admitsSpan hat fun k hk => .inl (hsrc k hk)) (fun _ _ => hcalm.no_overlap _)
        (works_quiet hat hcalm.quiet), bytesAt_congr hsame, readEvents_congr hsame, State.readPixel, State.todevWork,
      ← works_devAddr hu, ← works_packWord hu]
    rfl
  have hu' : Works s (u.readPixel xy (s.todevWork xy)) := works_trans hu (readPixel_works _ _ _)
  rw [hread, writeDevicePixel_calm _ (works_bpp hu' ▸ (bpp_le hformat).2)
    (hcalm.admitsSpan hu' fun k hk => .inr (inDevice_of_pixel hx hy (works_bpp hu' ▸ hk)))
    (fun _ _ => hcalm.no_overlap _) (works_quiet hu' hcalm.quiet), works_bpp hu']
  rfl

theorem exec_todev_calm (hformat : s.formatOk = true) (hm : s.maxv ≠ 0) (hcalm : CalmPass s s.inImage s.inDevice) :
    exec .todev s = .next (s.afterPass s.todevWork) := by
  have hexec : exec .todev s = ((forEach (todevPixel s.todevOverlap) (rasterOrder s.width s.height) s).bind
      fun _ t => .ok () t.passDone).finish := (if_pos hformat).trans (if_pos (headerOk_iff.2 hm))
  rw [hexec]
  exact calmPass_finish hcalm (fun _ hxy _ => inDevice_of_todevWork hxy)
    fun _ hxy _ hu => todevPixel_calm hformat hcalm hxy hu

theorem exec_todev_header (hformat : s.formatOk = true) (hm : s.maxv = 0) :
    exec .todev s = .next (s.raise .header) :=
  (if_pos hformat).trans (if_neg fun h => headerOk_iff.1 h hm)

end

/-- Settles O44: the checks in their order, else the work of every pixel. -/
theorem todevRule : Obligations.TodevRule := by
  refine ⟨rfl, fun s => ⟨errored_of_bad_format, fun hformat hm => ?_, fun hformat hm hq hapart ha => ?_⟩⟩
  · exact ⟨_, exec_todev_header hformat hm, raise_errored .header s⟩
  · refine ⟨_, exec_todev_calm hformat hm ⟨hq, hapart, ha⟩, afterPass_completed _ _, afterPass_frame _ _,
      afterPass_trace _ _, fun hw hh => ?_, afterPass_empty, fun a =>
      byteAt_afterPass_outside fun _ hxy _ => inDevice_of_todevWork hxy⟩
    obtain ⟨hpix, hdword⟩ := afterPass_last (work := s.todevWork) hw hh
    rw [hpix, hdword]
    exact ⟨rfl, rfl⟩

/-- Settles O45: a device pixel is at most four bytes, and no later pixel stores the byte. -/
theorem todevWritesEveryPixel : Obligations.TodevWritesEveryPixel := by
  intro s hformat hm hq hapart ha
  refine ⟨_, exec_todev_calm hformat hm ⟨hq, hapart, ha⟩, fun x y k hx hy hk hlater => ?_⟩
  have hlength : (s.todevWork (x, y)).bytes.length = s.bpp := wordBytes_length _ _
  refine (byteAt_afterPass_last_store (work := s.todevWork) hx hy (hlength ▸ hk) ?_ ?_).trans (wordBytes_getD _ hk)
  · have := (bpp_le hformat).2
    omega
  · intro x' y' hx' hy' hbefore hstores
    obtain ⟨k', hk', heq⟩ := todevWork_stores_iff.1 hstores
    exact hlater x' y' k' hx' hy' hk' hbefore heq

/-! ### FROMDEV -/

/-- The work of a pixel of FROMDEV, on the device buffer as it is in s (R164). -/
def State.fromdevWork (s : State) (xy : Nat × Nat) : PixelWork where
  reads := s.readEvents (s.devAddr xy.1 xy.2) s.bpp
  pix := s.unpackWord (s.deviceWord xy.1 xy.2)
  dword := s.deviceWord xy.1 xy.2
  dst := s.outAddr xy.1 xy.2
  bytes := encodeTriplet (s.unpackWord (s.deviceWord xy.1 xy.2))

section
variable {s : State}

theorem inOutput_of_fromdevWork {xy : Nat × Nat} (hxy : xy ∈ rasterOrder s.width s.height) {a : Word}
    (ha : (s.fromdevWork xy).Stores a) : s.inOutput a = true := by
  obtain ⟨hx, hy⟩ := mem_rasterOrder hxy
  obtain ⟨k, hk, rfl⟩ := ha
  exact inOutput_of_pixel hx hy hk

/-- A pixel of a calm FROMDEV: one run of reads of the device buffer as it was in s, then one run of writes. -/
theorem fromdevPixel_calm (hcalm : CalmPass s s.inDevice s.inOutput) {xy : Nat × Nat}
    (hxy : xy ∈ rasterOrder s.width s.height) {u : State} (hu : Works s u)
    (hdevice : ∀ a, s.inDevice a = true → u.byteAt a = s.byteAt a) :
    fromdevPixel s.fromdevOverlap xy u = .ok () (u.doPixel xy (s.fromdevWork xy)) := by
  obtain ⟨hx, hy⟩ := mem_rasterOrder hxy
  have hsrc (k : Nat) (hk : k < s.bpp) : s.inDevice (plus (s.devAddr xy.1 xy.2) k) = true :=
    inDevice_of_pixel hx hy hk
  have hat : Works s (u.atPixel xy) := works_trans hu (works_of_eq rfl)
  have hsame (k : Nat) (hk : k < s.bpp) :
      (u.atPixel xy).byteAt (plus (s.devAddr xy.1 xy.2) k) = s.byteAt (plus (s.devAddr xy.1 xy.2) k) :=
    hdevice _ (hsrc k hk)
  have hread : fromdevPixel s.fromdevOverlap xy u =
      encodeAt s.fromdevOverlap (s.outAddr xy.1 xy.2) (s.unpackWord (s.deviceWord xy.1 xy.2))
        (u.readPixel xy (s.fromdevWork xy)) := by
    rw [fromdevPixel, works_devAddr hu,
      readDevicePixel_calm (hcalm.admitsSpan hat fun k hk => .inl (hsrc k (works_bpp hat ▸ hk)))
        (fun _ _ => hcalm.no_overlap _) (works_quiet hat hcalm.quiet), works_bpp hat, bytesAt_congr hsame,
      readEvents_congr hsame, State.readPixel, State.fromdevWork, ← works_outAddr hu, ← works_unpackWord hu]
    rfl
  have hu' : Works s (u.readPixel xy (s.fromdevWork xy)) := works_trans hu (readPixel_works _ _ _)
  rw [hread]
  exact encodeAt_calm (hcalm.admitsSpan hu' fun k hk => .inr (inOutput_of_pixel hx hy hk))
    (fun _ _ => hcalm.no_overlap _) (works_quiet hu' hcalm.quiet)

theorem exec_fromdev_calm (hformat : s.formatOk = true) (hcalm : CalmPass s s.inDevice s.inOutput) :
    exec .fromdev s = .next (s.afterPass s.fromdevWork) := by
  have hexec : exec .fromdev s = ((forEach (fromdevPixel s.fromdevOverlap) (rasterOrder s.width s.height) s).bind
      fun _ t => .ok () t.passDone).finish := if_pos hformat
  rw [hexec]
  exact calmPass_finish hcalm (fun _ hxy _ => inOutput_of_fromdevWork hxy)
    fun _ hxy _ hu => fromdevPixel_calm hcalm hxy hu

end

/-- Settles O46: FORMAT is the only check, else the work of every pixel. -/
theorem fromdevRule : Obligations.FromdevRule := by
  refine ⟨rfl, fun s => ⟨errored_of_bad_format, fun hformat hq hapart ha => ?_⟩⟩
  refine ⟨_, exec_fromdev_calm hformat ⟨hq, hapart, ha⟩, afterPass_completed _ _, afterPass_frame _ _,
    afterPass_trace _ _, fun hw hh => ?_, afterPass_empty, fun a =>
    byteAt_afterPass_outside fun _ hxy _ => inOutput_of_fromdevWork hxy⟩
  obtain ⟨hpix, hdword⟩ := afterPass_last (work := s.fromdevWork) hw hh
  rw [hpix, hdword]
  exact ⟨rfl, rfl⟩

/-! ### The output triplets -/

theorem plus_inj {a : Word} {j k : Nat} (hj : j < 2 ^ 32) (hk : k < 2 ^ 32) (h : plus a j = plus a k) : j = k := by
  have hnat := congrArg BitVec.toNat h
  rw [plus_toNat, plus_toNat] at hnat
  omega

/-- In an output of at most 2^32 bytes the triplets of two pixels share no byte (R162). -/
theorem outAddr_apart {s : State} (hfits : 3 * s.width * s.height ≤ 2 ^ 32) {x y x' y' k k' : Nat}
    (hx : x < s.width) (hx' : x' < s.width) (hy' : y' < s.height) (hk : k < 3) (hk' : k' < 3)
    (hbefore : before x y x' y') : plus (s.outAddr x' y') k' ≠ plus (s.outAddr x y) k := by
  have hindex : y * s.width + x < y' * s.width + x' := by
    rcases hbefore with hrows | ⟨rfl, hcolumns⟩
    · have hrow : (y + 1) * s.width ≤ y' * s.width := Nat.mul_le_mul_right _ hrows
      rw [Nat.succ_mul] at hrow
      omega
    · omega
  have hlast : y' * s.width + x' < s.height * s.width := (lt_mul_iff_split _ _ _).2 ⟨y', x', hy', hx', rfl⟩
  have hsize : 3 * (s.height * s.width) ≤ 2 ^ 32 := by rwa [Nat.mul_comm s.height, ← Nat.mul_assoc]
  rw [outAddr_eq_plus, outAddr_eq_plus, plus_plus, plus_plus]
  intro heq
  have := plus_inj (by omega) (by omega) heq
  omega

/-- Settles O47: no later triplet falls on the three bytes of a pixel. -/
theorem fromdevWritesEveryTriplet : Obligations.FromdevWritesEveryTriplet := by
  intro s hformat hq hapart ha hfits
  refine ⟨_, exec_fromdev_calm hformat ⟨hq, hapart, ha⟩, fun x y hx hy => ?_⟩
  have hbyte (k : Nat) (hk : k < 3) : (s.afterPass s.fromdevWork).byteAt (plus (s.outAddr x y) k) =
      (encodeTriplet (s.unpackWord (s.deviceWord x y))).getD k 0 := by
    refine byteAt_afterPass_last_store (work := s.fromdevWork) hx hy hk (show 3 ≤ 2 ^ 32 by decide) ?_
    rintro x' y' hx' hy' hbefore ⟨k', hk', heq⟩
    exact outAddr_apart hfits hx hx' hy' hk hk' hbefore heq
  exact (List.map_congr_left fun k hk => hbyte k (List.mem_range.1 hk)).trans rfl

end Sys2Proof.Machine

/-! The control unit (45_control.md): host writes to the register window and the lifecycle they drive, the step that
runs a command and how it ends, and the two control commands. -/

namespace Sys2Proof.Machine

/-! ### Acceptance and dropped writes (R170, R171) -/

section
variable {s : State}

/-- Acceptance clears DONE, so the interrupt output is low whatever IE is (R170, R190). -/
theorem accept_eq (v : Word) : s.accept v =
    { s with
      curCmd := v, eng := .run, status := statusAccept s.status, irq := false, waiting := none, trace := [],
      races := [] } := by
  rw [← accept_irq v s]
  rfl

theorem writeReg_cmd_idle (v : Word) (hbusy : s.busy = false) : s.writeReg .cmd v = s.accept v := by
  simp [State.writeReg, hbusy]

/-- While BUSY = 1 every register but STATUS, CTRL and RES drops the write (R171). -/
theorem writeReg_dropped {r : Reg} (v : Word) (hbusy : s.busy = true) (hstatus : r ≠ .status) (hctrl : r ≠ .ctrl)
    (hres : r ≠ .res) : s.writeReg r v = s.overrun := by
  by_cases hcmd : r = .cmd
  · simp [hcmd, State.writeReg, hbusy]
  · rw [writeReg_storable v ⟨hcmd, hstatus, hctrl, hres⟩, if_pos hbusy]

theorem writeCtrl_ie (v : Word) : (s.writeCtrl v).ie = v.getLsbD 0 := by
  simp [State.ie, Reg.fields]

/-- A step whose turn is a host write at the offset of a register is the write to that register. -/
theorem step_busWrite_reg {rest : List Turn} (r : Reg) (v : Word)
    (hagenda : s.agenda = .busWrite (s.mmioBase + r.offset) 4 v :: rest) (hbase : s.mmioBase % 4 = 0) :
    step s = .next (({ s with agenda := rest } : State).writeReg r v) :=
  (step_turn hagenda).trans (hostWrite_reg r v hbase)

/-! ### The engine's own move (R173) -/

theorem engineTurn_decoded {i : Instr} (heng : s.eng = .run) (hwaiting : s.waiting = none)
    (hdecode : decode s.curCmd = .ok i) : engineTurn s = exec i s := by
  simp [engineTurn, heng, hwaiting, hdecode]

end

/-- Settles O6: both steps are the engine's turn, and the agenda plays no part in it. -/
theorem stepRunsDecodedCommand : Obligations.StepRunsDecodedCommand := by
  intro s i heng hwaiting hdecode
  refine ⟨fun hagenda => ?_, fun rest hagenda => ?_⟩
  · exact (step_empty hagenda).trans (engineTurn_decoded heng hwaiting hdecode)
  · exact (step_turn hagenda).trans (engineTurn_decoded (s := { s with agenda := rest }) heng hwaiting hdecode)

/-- Settles O7: the write is `accept`, and the state it leaves meets the hypotheses of O6. -/
theorem writeToCmdAccepts : Obligations.WriteToCmdAccepts := by
  intro s v rest hagenda hbase hbusy
  have haccept : step s = .next (({ s with agenda := rest } : State).accept v) := by
    rw [step_busWrite_reg .cmd v hagenda hbase, writeReg_cmd_idle (s := { s with agenda := rest }) v hbusy]
  refine ⟨_, haccept, rfl, rfl, accept_busy v _, accept_done v _, accept_err v _, accept_ovr v _, accept_irq v _,
    accept_eq v, fun i hrest hdecode => ?_⟩
  obtain ⟨hempty, _⟩ := stepRunsDecodedCommand (({ s with agenda := rest } : State).accept v) i rfl rfl hdecode
  exact hempty hrest

/-- Settles O8: a dropped write is `overrun`, STATUS and CTRL are written as ever, and RES ignores the write. -/
theorem writesWhileBusy : Obligations.WritesWhileBusy := by
  constructor
  · intro s r v rest hagenda hbase hbusy
    refine ⟨_, step_busWrite_reg r v hagenda hbase, fun hstatus hctrl hres => ?_, ?_, ?_⟩
    · rw [writeReg_dropped (s := { s with agenda := rest }) v hbusy hstatus hctrl hres]
      exact ⟨rfl, overrun_ovr _, (overrun_busy _).trans hbusy, overrun_done _, overrun_err _⟩
    · rintro rfl
      exact ⟨rfl, acknowledge_done v _, acknowledge_ovr v _, (acknowledge_busy v _).trans hbusy,
        acknowledge_err v _⟩
    · rintro rfl
      exact ⟨rfl, writeCtrl_ie v⟩
  · intro s k v rest hagenda hbase hk hwindow haligned
    rcases hk with rfl | hunmapped
    · exact step_busWrite_reg .res v hagenda hbase
    · exact (step_turn hagenda).trans (hostWrite_unmapped v hbase hunmapped hwindow haligned)

/-! ### How a command ends (R72, R172, R187) -/

/-- How a command whose checks give `check` can end: with that error; or, where they pass, completed or at an access
that MEM_ADMIT refuses, the lifecycle standing still. -/
inductive EndsWith (s : State) : Option CmdError → State → Prop where
  | raised (e : CmdError) : EndsWith s (some e) (s.raise e)
  | completed {t : State} (ht : Completed s t) (hwaiting : t.waiting = none) : EndsWith s none t
  | stuck {t : State} {a : Word} (ht : Works s t) (hwaiting : t.waiting = some a) (hrefused : s.admits a = false) :
      EndsWith s none t

/-- The outcome is a next state, in which a command whose checks give `check` has ended. -/
def AnswersWith (s : State) (check : Option CmdError) (o : Host.Outcome State Fault Refusal) : Prop :=
  ∃ t, o = .next t ∧ EndsWith s check t

section
variable {s : State}

/-- One check of a command, beside the same check of `firstError`. -/
theorem answersWith_checked {c : Bool} {e : CmdError} {check : Option CmdError}
    {o : Host.Outcome State Fault Refusal} (ho : c = true → AnswersWith s check o) :
    AnswersWith s (if c then check else some e) (if c then o else .next (s.raise e)) := by
  cases c with
  | true => exact ho rfl
  | false => exact ⟨_, rfl, .raised e⟩

section
variable (hwaiting : s.waiting = none)
include hwaiting

theorem answersWith_complete {u : State} (hstatus : u.status = s.status) (hctrl : u.ctrl = s.ctrl)
    (hu : u.waiting = s.waiting) : AnswersWith s none (.next u.complete) :=
  ⟨_, rfl, .completed (complete_completed_from hstatus hctrl) (hu.trans hwaiting)⟩

/-- Work at the port completes, or hangs at an access the platform does not answer (R72). -/
theorem answersWith_finish {W : Word → Prop} {r : Run Unit} (hr : r.Logs W s) : AnswersWith s none r.finish := by
  cases r with
  | ok _ u =>
    obtain ⟨⟨hworks, _⟩, hu⟩ := hr
    exact answersWith_complete hwaiting (works_status hworks) (works_ctrl hworks) hu
  | hung t =>
    obtain ⟨⟨hworks, _⟩, a, hta, hrefused⟩ := hr
    exact ⟨t, rfl, .stuck hworks hta hrefused⟩

theorem answersWith_pass {pixel : Nat × Nat → State → Run Unit}
    (hpixel : ∀ xy t, (pixel xy t).Logs (fun _ => True) t) :
    AnswersWith s none
      ((forEach pixel (rasterOrder s.width s.height) s).bind fun _ t => .ok () t.passDone).finish :=
  answersWith_finish hwaiting <|
    logs_bind (forEach_logs _ (fun xy _ t _ => hpixel xy t) s (works_refl s)) fun _ _ _ =>
      ⟨logged_of_works (works_of_eq rfl) rfl rfl, rfl⟩

theorem execDecode_answersWith : AnswersWith s (firstError .decode s) (execDecode s) :=
  answersWith_checked fun _ => answersWith_finish hwaiting <|
    logs_bind (decodeAt_logs _ (fun _ => True) _ _ s) fun _ _ _ =>
      ⟨logged_of_works (works_of_eq rfl) rfl rfl, rfl⟩

theorem execRdpix_answersWith : AnswersWith s (firstError .rdpix s) (execRdpix s) :=
  answersWith_checked fun _ => answersWith_finish hwaiting <|
    logs_bind (readDevicePixel_logs _ (fun _ => True) _ s) fun _ _ _ =>
      ⟨logged_of_works (works_of_eq rfl) rfl rfl, rfl⟩

theorem execWrpix_answersWith : AnswersWith s (firstError .wrpix s) (execWrpix s) :=
  answersWith_checked fun _ => answersWith_finish hwaiting <|
    logs_trans (W := fun _ => True) (logged_of_works (works_of_eq rfl) rfl rfl) rfl <|
      writeDevicePixel_logs _ _ _ fun _ _ => trivial

/-- Of the formats that pass, RAMP refuses the indexed ones: those that are not direct (R29, R184). -/
theorem execRamp_answersWith : AnswersWith s (firstError .ramp s) (execRamp s) := by
  refine answersWith_checked fun hformat => ?_
  obtain ⟨_, hvis, _⟩ := (formatOk_iff s).1 hformat
  simp only [List.mem_cons, List.not_mem_nil, or_false] at hvis
  rcases hvis with hvis | hvis | hvis | hvis <;> rw [hvis]
  case inl | inr.inr.inl => exact answersWith_complete hwaiting (u := s.rampLut) rfl rfl rfl
  case inr.inl | inr.inr.inr => exact ⟨_, rfl, .raised .kind⟩

/-- Every command reports the first error its checks give, and is stopped by nothing else but the platform. -/
theorem exec_answersWith (i : Instr) : AnswersWith s (firstError i s) (exec i s) := by
  cases i with
  | nop | lutwr _ _ | lutrd _ _ => exact answersWith_complete hwaiting rfl rfl rfl
  | validate | extract _ | pack _ | extw | packw | addr =>
    exact answersWith_checked fun _ => answersWith_complete hwaiting rfl rfl rfl
  | decode => exact execDecode_answersWith hwaiting
  | encode =>
    exact answersWith_finish hwaiting (encodeAt_logs (W := fun _ => True) _ _ s fun _ _ => trivial)
  | rdpix => exact execRdpix_answersWith hwaiting
  | wrpix => exact execWrpix_answersWith hwaiting
  | ramp => exact execRamp_answersWith hwaiting
  | todev =>
    exact answersWith_checked fun _ => answersWith_checked fun _ => answersWith_pass hwaiting fun xy t =>
      todevPixel_logs _ xy t fun _ _ => trivial
  | fromdev =>
    exact answersWith_checked fun _ => answersWith_pass hwaiting fun xy t =>
      fromdevPixel_logs _ xy t fun _ _ => trivial

end
end

/-- Settles O18: the three ends of `EndsWith`, in the words of the statement. -/
theorem everyCommandEnds : Obligations.EveryCommandEnds := by
  intro i s hwaiting
  obtain ⟨t, hexec, hends⟩ := exec_answersWith hwaiting i
  refine ⟨t, hexec, ?_⟩
  generalize firstError i s = check at hends ⊢
  cases hends with
  | raised e => exact .inl ⟨e, rfl, raise_errored e s⟩
  | completed ht hnone => exact .inr (.inl ⟨rfl, ht, hnone⟩)
  | stuck ht ha hrefused =>
    exact .inr (.inr ⟨rfl, ⟨_, ha, hrefused⟩, works_status ht, works_eng ht, works_irq ht⟩)

/-! ### NOP and VALIDATE (R174, R175) -/

/-- Settles O20: NOP is `complete`, which keeps the ERR that acceptance has cleared. -/
theorem nopRule : Obligations.NopRule := by
  refine ⟨rfl, fun s => ⟨_, rfl, complete_completed s, rfl⟩, fun s => ⟨_, rfl, ?_, complete_done _⟩⟩
  exact (complete_err _).trans (accept_err (encode .nop) s)

/-- Settles O21: the condition is `FormatOK`, the one check VALIDATE makes. -/
theorem validateRule : Obligations.ValidateRule := by
  refine ⟨rfl, fun s => ?_⟩
  rw [← formatOk_iff]
  by_cases hformat : s.formatOk = true
  · exact ⟨_, if_pos hformat, fun _ => ⟨complete_completed s, rfl⟩, fun h => absurd hformat h⟩
  · obtain ⟨t, hexec, herrored⟩ := errored_of_bad_format (Bool.eq_false_iff.2 hformat)
    exact ⟨t, hexec, fun h => absurd h hformat, fun _ => herrored⟩

end Sys2Proof.Machine

/-! Errors and the interrupt output (60_exceptions.md): how each event leaves `irq`, which failing check a command
reports, and the engine whose access is never answered. -/

namespace Sys2Proof.Machine

/-! ### The interrupt output (R190) -/

/-- A command that ends with nothing unanswered has raised DONE, with an error or without, so `irq` is IE (R190). -/
theorem exec_irq {i : Instr} {s t : State} (hexec : exec i s = .next t) (ht : t.waiting = none)
    (hs : s.waiting = none) : t.irq = s.ie := by
  obtain ⟨u, hu, hends⟩ := exec_answersWith hs i
  cases hexec.symm.trans hu
  generalize firstError i s = check at hends
  cases hends with
  | raised e => exact raise_irq e s
  | completed hcompleted _ => exact hcompleted.irq
  | stuck _ hwaiting _ => simp [hwaiting] at ht

/-- Settles O16: the end of a command is `exec_irq`; each other event clears DONE, clears IE, or resets. -/
theorem interruptOutput : Obligations.InterruptOutput := by
  refine ⟨fun _ _ _ => exec_irq, fun s v => accept_irq v s, fun s v hdone => ?_, fun s v hie => ?_, hardReset_irq⟩
  · calc (s.acknowledge v).irq = ((s.done && !v.getLsbD 1) && s.ie) := acknowledge_irq v s
      _ = false := by rw [hdone, Bool.not_true, Bool.and_false, Bool.false_and]
  · calc (s.writeCtrl v).irq = (s.done && v.getLsbD 0) := writeCtrl_irq v s
      _ = false := by rw [hie, Bool.and_false]

/-! ### The first failing check (R185, R186) -/

section
variable {s : State}

/-- Every command but NOP, DECODE, ENCODE, LUTWR and LUTRD checks the format, and checks it first (R185). -/
theorem firstError_of_bad_format {i : Instr} (hi : i ∉ [Instr.nop, .decode, .encode])
    (hlut : ∀ c k, i ≠ .lutwr c k ∧ i ≠ .lutrd c k) (hformat : s.formatOk = false) :
    firstError i s = some .format := by
  cases i with
  | nop | decode | encode => simp at hi
  | lutwr c k => exact absurd rfl (hlut c k).1
  | lutrd c k => exact absurd rfl (hlut c k).2
  | validate | extract _ | pack _ | extw | packw | addr | rdpix | wrpix | ramp | todev | fromdev =>
    simp [firstError, hformat]

theorem headerOk_eq_false (hmaxv : s.maxv = 0) : s.headerOk = false :=
  Bool.eq_false_iff.2 fun h => headerOk_iff.1 h hmaxv

theorem firstError_decode_header (hmaxv : s.maxv = 0) : firstError .decode s = some .header := by
  simp [firstError, headerOk_eq_false hmaxv]

theorem firstError_todev_header (hformat : s.formatOk = true) (hmaxv : s.maxv = 0) :
    firstError .todev s = some .header := by
  simp [firstError, hformat, headerOk_eq_false hmaxv]

theorem firstError_ramp_kind (hformat : s.formatOk = true) (hindexed : isIndexed s.vis = true) :
    firstError .ramp s = some .kind := by
  simp [firstError, hformat, hindexed]

theorem isIndexed_iff (vis : Nat) : isIndexed vis = true ↔ vis ∈ [3, 5] := by simp [isIndexed]

/-- A command whose checks fail ends with the error of the first (R187). -/
theorem exec_errored {i : Instr} {e : CmdError} (hwaiting : s.waiting = none) (he : firstError i s = some e) :
    exec i s = .next (s.raise e) := by
  obtain ⟨t, hexec, hends⟩ := exec_answersWith hwaiting i
  rw [he] at hends
  cases hends
  exact hexec

theorem step_errored {i : Instr} {e : CmdError} (hagenda : s.agenda = []) (heng : s.eng = .run)
    (hwaiting : s.waiting = none) (hdecode : decode s.curCmd = .ok i) (he : firstError i s = some e) :
    ∃ t, step s = .next t ∧ Errored e s t := by
  refine ⟨s.raise e, ?_, raise_errored e s⟩
  calc step s = engineTurn s := step_empty hagenda
    _ = exec i s := engineTurn_decoded heng hwaiting hdecode
    _ = .next (s.raise e) := exec_errored hwaiting he

end

/-- Settles O17: the word check is O4's; each other clause names the first failing check of `firstError`. -/
theorem errorPriority : Obligations.ErrorPriority := by
  intro s hagenda heng hwaiting
  rw [← formatOk_iff]
  refine ⟨illegalWords.2 s hagenda heng hwaiting, fun i hdecode hi hlut hformat => ?_,
    fun i hdecode hi hmaxv => ?_, fun hdecode hbpp hvis hwid => ?_⟩
  · exact step_errored hagenda heng hwaiting hdecode
      (firstError_of_bad_format hi hlut (Bool.eq_false_iff.2 hformat))
  · rcases hi with rfl | ⟨rfl, hformat⟩
    · exact step_errored hagenda heng hwaiting hdecode (firstError_decode_header hmaxv)
    · exact step_errored hagenda heng hwaiting hdecode (firstError_todev_header hformat hmaxv)
  · have hsupported : s.vis ∈ [2, 3, 4, 5] := by
      simp only [List.mem_cons, List.not_mem_nil, or_false] at hvis ⊢
      omega
    exact step_errored hagenda heng hwaiting hdecode
      (firstError_ramp_kind ((formatOk_iff s).2 ⟨hbpp, hsupported, hwid⟩) ((isIndexed_iff _).2 hvis))

/-! ### The engine whose access is never answered (R72, R195) -/

/-- An unanswered access belongs to a running command, whose STATUS and `irq` are as acceptance left them (R170). -/
theorem inv_waiting {s : State} (hs : s.Inv) (hwaiting : s.waiting ≠ none) :
    s.eng = .run ∧ s.busy = true ∧ s.done = false ∧ s.err = 0 ∧ s.irq = false := by
  have heng : s.eng = .run := hs.waitingRun hwaiting
  have hbusy : s.busy = true := hs.busyRun.2 heng
  obtain ⟨hdone, herr⟩ := hs.busyClean hbusy
  have hirq : s.irq = false := by simp [hs.irqLevel, hdone]
  exact ⟨heng, hbusy, hdone, herr, hirq⟩

section
variable {s : State}

/-- While BUSY = 1 no command is accepted, and nothing else a host write does touches the engine (R171). -/
theorem writeReg_waiting (r : Reg) (v : Word) (hbusy : s.busy = true) : (s.writeReg r v).waiting = s.waiting := by
  rcases writeReg_cases s r v with h | h | h | h | ⟨hidle, _⟩ | ⟨_, h⟩
  case inr.inr.inr.inr.inl => simp [hbusy] at hidle
  all_goals simp [h]

theorem hostRead_waiting {addr size : Nat} {t : State} (h : hostRead addr size s = .next t) :
    t.waiting = s.waiting := by
  rw [hostRead_next h]

@[simp] theorem hardReset_busy (s : State) : s.hardReset.busy = false :=
  (by decide : (0 : Word).getLsbD 0 = false)

/-- Of all turns only a reset lets go of an unanswered access (R195). -/
theorem takeTurn_waiting {x : Turn} {t : State} (hbusy : s.busy = true) (hwaiting : s.waiting ≠ none)
    (hx : ∀ k, x ≠ .reset k) (h : takeTurn x s = .next t) : t.waiting = s.waiting := by
  cases x with
  | engine =>
    cases (engineTurn_waiting hwaiting).symm.trans h
    rfl
  | busWrite addr size v =>
    rcases hostWrite_next h with rfl | ⟨r, rfl⟩
    · rfl
    · exact writeReg_waiting r v hbusy
  | busRead addr size => exact hostRead_waiting h
  | busPoll addr =>
    obtain ⟨u, hu, rfl⟩ := hostPoll_next h
    have hpoll : (u.pollAgain addr).waiting = u.waiting := by rw [pollAgain_frame]
    exact hpoll.trans (hostRead_waiting hu)
  | memWrite a v =>
    cases h
    obtain ⟨_, hframe, _⟩ := hostStore_frame s a v
    rw [hframe]
  | memRead a =>
    cases h
    rw [hostLoad_frame]
  | reset k => exact absurd rfl (hx k)

/-- A stuck engine makes no access, however many a reset would let it make (R195, R216). -/
theorem afterAccesses_waiting (k : Nat) (hwaiting : s.waiting ≠ none) : s.afterAccesses k = s := by
  simp [State.afterAccesses, engineTurn_waiting hwaiting, newEvents, replay]

end

/-- Settles O57: every turn but a reset keeps the unanswered access and the invariant, and they fix the rest. -/
theorem stuckUntilReset : Obligations.StuckUntilReset := by
  intro s hs hwaiting
  obtain ⟨_, hbusy, _, herr, _⟩ := inv_waiting hs hwaiting
  refine ⟨fun hagenda => ?_, fun x rest t hagenda hx hstep => ?_, fun k rest hagenda => ?_⟩
  · exact (step_empty hagenda).trans (engineTurn_waiting hwaiting)
  · have ht : t.Inv := stepKeepsInvariant s t hs hstep
    have hturn : takeTurn x { s with agenda := rest } = .next t := (step_turn hagenda).symm.trans hstep
    have hsame : t.waiting = s.waiting := takeTurn_waiting (s := { s with agenda := rest }) hbusy hwaiting hx hturn
    obtain ⟨hteng, htbusy, htdone, hterr, htirq⟩ := inv_waiting ht (hsame ▸ hwaiting)
    exact ⟨hsame, hteng, htbusy, htdone, hterr.trans herr.symm, htirq⟩
  · refine ⟨({ s with agenda := rest } : State).hardReset, ?_, rfl, hardReset_busy _, rfl, rfl⟩
    calc step s = .next (({ s with agenda := rest } : State).afterAccesses k).hardReset := step_turn hagenda
      _ = .next ({ s with agenda := rest } : State).hardReset := by
        rw [afterAccesses_waiting (s := { s with agenda := rest }) k hwaiting]

end Sys2Proof.Machine

/-! Reset and the hazards (70_reset_and_hazards.md): the state after reset and the first command accepted in it, the
reset event, the second of two back-to-back commands, and the bytes a pass addresses. -/

namespace Sys2Proof.Machine

/-! ### The state after reset (R201) -/

/-- A reset of the state after reset changes nothing, so the laws of `hardReset` hold of it as well. -/
theorem stored_reset (r : Reg) : State.reset.stored r = 0 := stored_hardReset State.reset r

@[simp] theorem hardReset_done (s : State) : s.hardReset.done = false :=
  (by decide : (0 : Word).getLsbD 1 = false)

@[simp] theorem hardReset_err (s : State) : s.hardReset.err = 0 :=
  (by decide : (0 : Word).extractLsb' 4 4 = 0)

/-- Settles O59: the state after reset is a reset state whose memory lists nothing. -/
theorem resetMeetsInvariant : Obligations.ResetMeetsInvariant := inv_hardReset wf_reset

theorem toFin_eq_code (c : Channel) : (Channel.toFin c : Nat) = c.code.toNat := by cases c <;> rfl

/-- Entry k of the table of channel c holds LUT_INIT(c, k) once the LUT is reset (R48, R200). -/
theorem lutEntry_of_lutReset {s : State} (hlut : s.lut = lutReset) (c : Channel) (k : BitVec 8) :
    s.lutEntry c k = Config.lutInit c.code.toNat k.toNat := by
  rw [State.lutEntry, hlut, lutReset, tabulate_get, tabulate_get, toFin_eq_code, BitVec.val_toFin]

theorem readReg_of_stored_zero {s : State} {r : Reg} (h : s.stored r = 0) : s.readReg r = 0 := by
  simp [State.readReg, h]

theorem hostRead_reset_reg (r : Reg) :
    hostRead (State.reset.mmioBase + r.offset) 4 State.reset = .next { State.reset with rdata := 0 } := by
  rw [hostRead_reg r rfl, readTo_steady (.inl rfl), readReg_of_stored_zero (stored_reset r)]

/-- No device format has 0 bytes per pixel (R181). -/
theorem formatOk_of_bpp_zero {s : State} (hbpp : s.bpp = 0) : s.formatOk = false :=
  Bool.eq_false_iff.2 fun hformat => by
    have := bpp_le hformat
    omega

/-- Settles O54: every register stores 0, which has no bit set, no bytes per pixel and no maxval. -/
theorem resetState : Obligations.ResetState := by
  refine ⟨fun r => ⟨stored_reset r, _, hostRead_reset_reg r, rfl⟩, fun k hunmapped hwindow haligned => ?_,
    lutEntry_of_lutReset rfl, rfl, rfl, hardReset_busy State.reset, hardReset_done State.reset, rfl,
    hardReset_err State.reset, rfl, ?_, ?_⟩
  · exact ⟨_, hostRead_unmapped rfl hunmapped hwindow haligned, rfl⟩
  · exact formatOk_of_bpp_zero rfl
  · exact headerOk_eq_false rfl

/-! ### The first command after reset (R202) -/

theorem first_command_errored {i : Instr} {e : CmdError}
    (he : firstError i (State.reset.accept (encode i)) = some e) :
    ∃ t, exec i (State.reset.accept (encode i)) = .next t ∧ t.err = e.code ∧ t.done = true :=
  ⟨_, exec_errored (accept_waiting ..) he, raise_err .., raise_done ..⟩

/-- After reset FMT is 0, so a command that checks the format fails that check (R28, R202). -/
theorem first_command_bad_format {i : Instr} (hi : i ∉ [Instr.nop, .decode, .encode])
    (hlut : ∀ c k, i ≠ .lutwr c k ∧ i ≠ .lutrd c k) :
    ∃ t, exec i (State.reset.accept (encode i)) = .next t ∧ t.err = 2 ∧ t.done = true :=
  first_command_errored (firstError_of_bad_format hi hlut (formatOk_of_bpp_zero rfl))

theorem first_command_completed {w : Word} {t : State} (h : Completed (State.reset.accept w) t) :
    t.err = 0 ∧ t.done = true :=
  ⟨h.err.trans (accept_err w State.reset), h.done⟩

theorem bytesAt_three (s : State) (a : Word) : s.bytesAt a 3 = [s.byteAt a, s.byteAt (a + 1), s.byteAt (a + 2)] := by
  simp [State.bytesAt, plus, List.range_succ]

/-- ENCODE stores the triplet of PIX = 0 at MADDR = 0, where every byte answers (R202, log 4). -/
theorem first_command_encode :
    ∃ t, exec .encode (State.reset.accept (encode .encode)) = .next t ∧ t.err = 0 ∧ t.done = true ∧
      t.trace = [.write 2 0, .write 1 0, .write 0 0] ∧ t.bytesAt 0 3 = [0, 0, 0] := by
  obtain ⟨t, hexec, hcompleted, _, hred, hgreen, hblue, _, htrace⟩ :=
    encodeRule.2 (State.reset.accept (encode .encode)) rfl (fun _ _ => rfl)
  obtain ⟨herr, hdone⟩ := first_command_completed hcompleted
  refine ⟨t, hexec, herr, hdone, htrace, ?_⟩
  calc t.bytesAt 0 3 = [t.byteAt 0, t.byteAt (0 + 1), t.byteAt (0 + 2)] := bytesAt_three t 0
    _ = [0, 0, 0] := congrArg₂ _ hred (congrArg₂ _ hgreen (congrArg₂ _ hblue rfl))

/-- Settles O19: the format check fails, the header check fails, or nothing is checked. -/
theorem commandsAfterReset : Obligations.CommandsAfterReset := by
  refine ⟨fun i hi => ?_, fun c => ⟨?_, ?_⟩, ?_, ?_, first_command_encode, fun c k => ⟨?_, ?_⟩⟩
  · have hchecked : i ∉ [Instr.nop, .decode, .encode] := by
      rintro h
      simp only [List.mem_cons, List.not_mem_nil, or_false] at h
      rcases h with rfl | rfl | rfl <;> simp at hi
    have hlut : ∀ c k, i ≠ .lutwr c k ∧ i ≠ .lutrd c k := fun c k => by
      constructor <;> rintro rfl <;> simp at hi
    exact first_command_bad_format hchecked hlut
  · exact first_command_bad_format (by simp) (by simp)
  · exact first_command_bad_format (by simp) (by simp)
  · exact first_command_errored (firstError_decode_header rfl)
  · exact ⟨_, rfl, first_command_completed (complete_completed _)⟩
  · obtain ⟨t, hexec, hcompleted, _⟩ := (lutwrRule c k).2 (State.reset.accept (encode (.lutwr c k)))
    exact ⟨t, hexec, first_command_completed hcompleted⟩
  · obtain ⟨t, hexec, hcompleted, _, hres⟩ := (lutrdRule c k).2 (State.reset.accept (encode (.lutrd c k)))
    obtain ⟨herr, hdone⟩ := first_command_completed hcompleted
    refine ⟨t, hexec, herr, hdone, BitVec.eq_of_toNat_eq ?_⟩
    rw [hres, lutEntry_of_lutReset rfl, BitVec.toNat_setWidth_of_le (by decide)]

/-! ### The reset event (R200, R216) -/

section
variable {s t : State}

theorem step_reset {k : Nat} {rest : List Turn} (hagenda : s.agenda = .reset k :: rest) :
    step s = .next (({ s with agenda := rest } : State).afterAccesses k).hardReset := step_turn hagenda

theorem newEvents_of_trace {evs : List MemEvent} (htrace : t.trace = evs.reverse ++ s.trace) :
    newEvents s t = evs := by
  simp [newEvents, htrace]

/-- Memory when a reset cuts the engine's turn: the first k of the turn's byte events have been done (R216). -/
theorem afterAccesses_mem {evs : List MemEvent} (k : Nat) (hturn : engineTurn s = .next t)
    (htrace : t.trace = evs.reverse ++ s.trace) : (s.afterAccesses k).mem = replay (evs.take k) s.mem := by
  simp [State.afterAccesses, hturn, newEvents_of_trace htrace]

theorem engineTurn_idle (hidle : s.eng = .idle) : engineTurn s = .next s := by
  simp [engineTurn, hidle]

theorem afterAccesses_mem_of_rest (k : Nat) (hturn : engineTurn s = .next s) : (s.afterAccesses k).mem = s.mem := by
  rw [afterAccesses_mem (evs := []) k hturn rfl, List.take_nil, replay]

/-- A reset before the first access finds memory as it was, whatever the engine would have done (log 15). -/
theorem afterAccesses_zero_mem : (s.afterAccesses 0).mem = s.mem := by
  obtain ⟨t, hturn, _⟩ := engineTurn_next s
  simp [State.afterAccesses, hturn, replay]

theorem afterAccesses_mem_unmoved {k : Nat} (h : s.eng = .idle ∨ s.waiting ≠ none ∨ k = 0) :
    (s.afterAccesses k).mem = s.mem := by
  rcases h with hidle | hwaiting | rfl
  · exact afterAccesses_mem_of_rest k (engineTurn_idle hidle)
  · exact afterAccesses_mem_of_rest k (engineTurn_waiting hwaiting)
  · exact afterAccesses_zero_mem

/-- The schedule and the platform outlast a reset (R200, log 13). -/
theorem hardReset_afterAccesses_surroundings (k : Nat) (s : State) :
    (s.afterAccesses k).hardReset.agenda = s.agenda ∧ (s.afterAccesses k).hardReset.silent = s.silent ∧
      (s.afterAccesses k).hardReset.mmioBase = s.mmioBase := by
  rw [afterAccesses_frame]
  exact ⟨rfl, rfl, rfl⟩

end

/-- Settles O55: the registers, the LUT and the engine are `hardReset`'s, and memory is what the cut turn left. -/
theorem resetEvent : Obligations.ResetEvent := by
  intro s k rest hagenda
  obtain ⟨hleft, hsilent, hbase⟩ := hardReset_afterAccesses_surroundings k { s with agenda := rest }
  exact ⟨_, step_reset hagenda, stored_hardReset _, lutEntry_of_lutReset (hardReset_lut _), hardReset_eng _,
    hardReset_irq _, hardReset_waiting _, hleft, hsilent, hbase,
    afterAccesses_mem_unmoved (s := { s with agenda := rest })⟩

/-- Settles O56: the events of the cut turn are those whose replay the whole command's memory is. -/
theorem resetCutsCommand : Obligations.ResetCutsCommand := by
  intro s u i k rest hagenda heng hwaiting hdecode hexec
  obtain ⟨evs, htrace, hmem⟩ := memoryIsReplayOfEvents i _ u hexec
  have hturn : engineTurn { s with agenda := rest } = .next u :=
    (engineTurn_decoded (s := { s with agenda := rest }) heng hwaiting hdecode).trans hexec
  have hcut : (({ s with agenda := rest } : State).afterAccesses k).mem = replay (evs.take k) s.mem :=
    afterAccesses_mem k hturn htrace
  refine ⟨_, evs, step_reset hagenda, htrace, hcut, fun hlength => ?_, hardReset_eng _, hardReset_done _,
    hardReset_err _⟩
  calc (({ s with agenda := rest } : State).afterAccesses k).mem = replay (evs.take k) s.mem := hcut
    _ = replay evs s.mem := by rw [List.take_of_length_le hlength]
    _ = u.mem := hmem.symm

/-! ### Back-to-back commands (R206) -/

/-- Settles O15: the first write is accepted (O7), and the second meets BUSY = 1 and is dropped (O8). -/
theorem backToBackCommandDropped : Obligations.BackToBackCommandDropped := by
  intro s v w rest hbusy hbase hagenda
  obtain ⟨t, hfirst, hcmd, heng, htbusy, _, _, _, _, ht, _⟩ := writeToCmdAccepts s v _ hagenda hbase hbusy
  have htbase : t.mmioBase = s.mmioBase := by rw [ht]
  have htagenda : t.agenda = .busWrite (t.mmioBase + Reg.offset .cmd) 4 w :: rest := by
    rw [htbase, ht]
    rfl
  obtain ⟨u, hsecond, hdropped, _⟩ := writesWhileBusy.1 t .cmd w rest htagenda (htbase ▸ hbase) htbusy
  obtain ⟨hu, hovr, hubusy, hdone, herr⟩ := hdropped (by decide) (by decide) (by decide)
  refine ⟨t, u, hfirst, hsecond, ?_, ?_, hubusy, hovr, hu, hdone, herr⟩
  · rw [hu]
    exact hcmd
  · rw [hu]
    exact heng

/-! ### The bytes a pass addresses (R213) -/

/-- A region made of h rows of w cells of b bytes holds the bytes of its cells (R161, R213). -/
theorem rows_iff_cells {cell : Nat → Nat → Word} {b : Nat} (hcolumn : ∀ x y, cell x y = plus (cell 0 y) (x * b))
    (w h : Nat) (a : Word) :
    (List.range h).any (fun y => inSpan (cell 0 y) (w * b) a) = true ↔
      ∃ x y k, x < w ∧ y < h ∧ k < b ∧ a = plus (cell x y) k := by
  simp only [List.any_eq_true, List.mem_range, inSpan_iff, lt_mul_iff_split]
  constructor
  · rintro ⟨y, hy, _, ⟨x, k, hx, hk, rfl⟩, rfl⟩
    exact ⟨x, y, k, hx, hy, hk, by rw [hcolumn x y, plus_plus]⟩
  · rintro ⟨x, y, k, hx, hy, hk, rfl⟩
    exact ⟨y, hy, x * b + k, ⟨x, k, hx, hk, rfl⟩, by rw [hcolumn x y, plus_plus]⟩

/-- The output region is one run of triplets, so a byte of it has a pixel and a place in its triplet (R162). -/
theorem exists_pixel_of_inOutput {s : State} {a : Word} (ha : s.inOutput a = true) :
    ∃ x y k, x < s.width ∧ y < s.height ∧ k < 3 ∧ a = plus (s.outAddr x y) k := by
  obtain ⟨j, hj, rfl⟩ := (inSpan_iff ..).1 ha
  rw [show 3 * s.width * s.height = s.height * s.width * 3 by ring] at hj
  obtain ⟨p, k, hp, hk, rfl⟩ := (lt_mul_iff_split ..).1 hj
  obtain ⟨y, x, hy, hx, rfl⟩ := (lt_mul_iff_split ..).1 hp
  exact ⟨x, y, k, hx, hy, hk, by rw [outAddr_eq_plus, plus_plus]⟩

/-- Settles O43: image and device are rows of cells, and the output is one run of triplets. -/
theorem passFootprints : Obligations.PassFootprints := by
  refine fun s a => ⟨rows_iff_cells (imgAddr_column s) s.width s.height a,
    rows_iff_cells (devAddr_column s) s.width s.height a, exists_pixel_of_inOutput, ?_⟩
  rintro ⟨x, y, k, hx, hy, hk, rfl⟩
  exact inOutput_of_pixel hx hy hk

end Sys2Proof.Machine
